-- ==== Sys2Proof/Word.lean ====
section
/-! DEFINITION. The widths the spec fixes: bytes of the device's registers, 32-bit words, samples (R8, R9). -/

namespace Sys2Proof

/-- A byte: eight bits, unsigned (R9). One device register, one bus datum, one device address (R40). -/
abbrev Byte := BitVec 8

/-- A 32-bit word: a command word (R65), a response value (R72), a signed register of the block (R8's XLEN),
a reading of NOW (R12). -/
abbrev Word := BitVec 32

/-- A 24-bit raw conversion result (R8's SAMPLE_BITS, R51), and a 24-bit operand (R66, formats D and T). -/
abbrev Raw := BitVec 24

end Sys2Proof
end

