-- ==== Sys2Proof/Config.lean ====
section
/-! DEFINITION. What an implementation fixes (R8's parameters and the device register map, R46 to R50) and what
stays free: what the device and time do beyond the script a state holds. -/

namespace Sys2Proof

/-- A BitField: a (register, bit index) pair (R47, R67). -/
structure BitField where
  reg : Byte
  bit : BitVec 3
  deriving DecidableEq, Repr

/-- A 3-bit field: a register and the place of its lowest bit, 0 to 5 (R48; the bound is checked by
`RegMap.wf`, R50). -/
structure Field3 where
  reg : Byte
  lsb : BitVec 3
  deriving DecidableEq, Repr

/-- The device register map, an open parameter (R46 to R49): ten addresses, nine single-bit fields, three 3-bit
fields and the chopper value. -/
structure RegMap where
  /-- power-control -/
  regPuCtrl : Byte
  /-- control1 -/
  regCtrl1 : Byte
  /-- control2 -/
  regCtrl2 : Byte
  /-- ADC output high, bits 23:16: where the block read starts (R44) -/
  regAdcoB2 : Byte
  /-- ADC output mid; listed by the source, never a bus address of the block (R50) -/
  regAdcoB1 : Byte
  /-- ADC output low; listed by the source, never a bus address of the block (R50) -/
  regAdcoB0 : Byte
  /-- the chopper-disable register (R49) -/
  regChop : Byte
  /-- PGA; used by no procedure of the block (R46) -/
  regPga : Byte
  /-- PGA-power -/
  regPgaPwr : Byte
  /-- device-revision; used by no procedure of the block (R46) -/
  regDevRev : Byte
  /-- reset -/
  fReset : BitField
  /-- power-up-digital -/
  fPud : BitField
  /-- power-up-analog -/
  fPua : BitField
  /-- power-up-ready -/
  fPur : BitField
  /-- conversion-start -/
  fCs : BitField
  /-- cycle-ready -/
  fCr : BitField
  /-- calibration-start -/
  fCals : BitField
  /-- calibration-error -/
  fCalerr : BitField
  /-- PGA decoupling-capacitor bit -/
  fPgacap : BitField
  /-- gain -/
  fldGain : Field3
  /-- LDO voltage -/
  fldLdo : Field3
  /-- sample rate -/
  fldRate : Field3
  /-- the byte of the chopper-disable write (R49) -/
  chopValue : Byte
  deriving DecidableEq, Repr

/-- The spec's default map: the last columns of R46, R47, R48, and R49. PRESUMED by the spec itself (its GK1 to
GK3, general knowledge of the part the software is believed to drive; log 13). One instance of the parameter. -/
def RegMap.default : RegMap where
  regPuCtrl := 0x00
  regCtrl1 := 0x01
  regCtrl2 := 0x02
  regAdcoB2 := 0x12
  regAdcoB1 := 0x13
  regAdcoB0 := 0x14
  regChop := 0x15
  regPga := 0x1B
  regPgaPwr := 0x1C
  regDevRev := 0x1F
  fReset := ⟨0x00, 0⟩
  fPud := ⟨0x00, 1⟩
  fPua := ⟨0x00, 2⟩
  fPur := ⟨0x00, 3⟩
  fCs := ⟨0x00, 4⟩
  fCr := ⟨0x00, 5⟩
  fCals := ⟨0x02, 2⟩
  fCalerr := ⟨0x02, 3⟩
  fPgacap := ⟨0x1C, 7⟩
  fldGain := ⟨0x01, 0⟩
  fldLdo := ⟨0x01, 3⟩
  fldRate := ⟨0x02, 4⟩
  chopValue := 0x30

/-- The two time profiles (R8, R12): delays as lower bounds (normative), or exact (a test fixture). -/
inductive TimeProfile where
  | lowerBound
  | exact
  deriving DecidableEq, Repr

/-- The parameters of R8. Each is a field, never a constant folded into a rule. -/
structure Config where
  /-- DEVADDR, the device's 7-bit address on the bus (R41) -/
  devAddr : BitVec 7
  /-- NCH, the number of LED channels and of values in a scan (R152); at most the eight that `SR`, `W` and `RDSR`'s
  operand have room for (log 14) -/
  nch : BitVec 4
  /-- SAMPLE_BITS, the width of a raw conversion result, at most the 24 of the block read (R94; log 14) -/
  sampleBits : Nat
  /-- XLEN, the width of the signed words samples, `ZOFF` and results are stored in, at least the 32 of a response
  (R9, R72; log 14) -/
  xlen : Nat
  /-- FIELD_MAX, the largest code of a 3-bit field (R93) -/
  fieldMax : Byte
  /-- RESET_SETTLE_MS (R111) -/
  resetSettleMs : Word
  /-- PU_POLL_MAX, the largest number of power-up-ready polls (R112) -/
  puPollMax : BitVec 7
  /-- PU_POLL_MS (R112) -/
  puPollMs : Word
  /-- CAL_POLL_MS (R114) -/
  calPollMs : Word
  /-- CAL_TIMEOUT_DEFAULT_MS, the timeout BEGIN uses (R118), in the form of an operand of CALAFE (R67) -/
  calTimeoutDefaultMs : Raw
  /-- CAL_TYPICAL_MS, informative: no rule reads it (R200) -/
  calTypicalMs : Word
  /-- AVG_BUDGET_MS (R139) -/
  avgBudgetMs : Word
  /-- AVG_POLL_MS (R139) -/
  avgPollMs : Word
  /-- RD_POLL_MS (R138) -/
  rdPollMs : Word
  /-- SETTLE_MS (R151) -/
  settleMs : Word
  /-- NMAX, the largest sample count (R136) -/
  nmax : BitVec 16
  /-- TIME_PROFILE (R12) -/
  timeProfile : TimeProfile
  /-- RegMap (R46 to R50) -/
  regMap : RegMap
  deriving DecidableEq, Repr

/-- R8's default values. -/
def Config.default : Config where
  devAddr := 0x2A
  nch := 8
  sampleBits := 24
  xlen := 32
  fieldMax := 0b111
  resetSettleMs := 1
  puPollMax := 100
  puPollMs := 1
  calPollMs := 1
  calTimeoutDefaultMs := 1000
  calTypicalMs := 344
  avgBudgetMs := 1000
  avgPollMs := 1
  rdPollMs := 1
  settleMs := 5
  nmax := 65535
  timeProfile := .lowerBound
  regMap := RegMap.default

/-- What the other agents do around one interaction of the block (R5, R12): how much time it takes, which
registers the device changes on its own before it, whether a bus interaction faults, and whether the platform
asserts reset during it. Every value of every field is a behaviour the spec allows. No field switches an LED channel:
the platform's own switching of R188 is not part of a run (DESIGN CHOICE, log 20). -/
structure Move where
  /-- milliseconds that pass, modulo 2^32: any value (R12, U10); a delay takes at least its own length -/
  elapse : Word
  /-- the device's own register changes before the interaction, in order (R5, R54, U11) -/
  changes : List (Byte × Byte)
  /-- `none`: a bus interaction succeeds. `some b`: it faults (R45), and a register whose write faulted holds `b`
  afterwards, which may be its old value, the written value or any other (R43, U3) -/
  busFault : Option Byte
  /-- `some landed`: reset is asserted during this interaction (R186), and `landed` says whether a bus write or LED
  event in flight took effect (U13) -/
  reset : Option Bool
  deriving DecidableEq, Repr, Inhabited

/-- FREE VALUE (log 4): the move of interaction number `n` once a state's script is used up. It has no body, so a
statement holds whatever the device and time do there. Its `reset` part is never read (log 11). -/
opaque Config.freeMove : Nat → Move

end Sys2Proof
end

