-- ==== Sys2Proof/Syntax.lean ====
section
/-! DEFINITION. The twenty host commands, one constructor per row of the opcode table (R68). Every operand has
exactly the width its format gives it (R66, R67), so no term of this type carries an operand outside its field. -/

namespace Sys2Proof

/-- A command (the spec's word for an instruction, R1), with its operands. -/
inductive Instr where
  /-- `GETBIT reg, bit` (format R, R97). -/
  | getbit (reg : Byte) (bit : BitVec 3)
  /-- `SETBIT reg, bit` (format R, R98). -/
  | setbit (reg : Byte) (bit : BitVec 3)
  /-- `CLRBIT reg, bit` (format R, R99). -/
  | clrbit (reg : Byte) (bit : BitVec 3)
  /-- `DECODE raw` (format D, R100). -/
  | decode (raw : Raw)
  /-- `SETGAIN code` (format C, R101). -/
  | setgain (code : Byte)
  /-- `SETRATE code` (format C, R102). -/
  | setrate (code : Byte)
  /-- `SETLDO code` (format C, R103). -/
  | setldo (code : Byte)
  /-- `BEGIN ldo, gain, rate` (format B, R118). -/
  | begin (ldo gain rate : Byte)
  /-- `CALAFE tmo`, the timeout a signed 24-bit number of milliseconds (format T, R119). -/
  | calafe (tmo : Raw)
  /-- `WAITCAL tmo`, the timeout a signed 24-bit number of milliseconds (format T, R120). -/
  | waitcal (tmo : Raw)
  /-- `CALSTAT` (format Z, R121). -/
  | calstat
  /-- `CALZERO n` (format N, R122). -/
  | calzero (n : BitVec 16)
  /-- `AVAIL` (format Z, R141). -/
  | avail
  /-- `GETRD` (format Z, R142). -/
  | getrd
  /-- `GETAVG n` (format N, R143). -/
  | getavg (n : BitVec 16)
  /-- `GETLED` (`cl` false) and `GETLED.NN` (`cl` true) (format F, R144). -/
  | getled (cl : Bool)
  /-- `SCAN` (format Z, R152). -/
  | scan
  /-- `RDSR idx` (format I, R154). -/
  | rdsr (idx : BitVec 3)
  /-- `RDSTATE` (format Z, R155). -/
  | rdstate
  /-- `RDZOFF` (format Z, R156). -/
  | rdzoff
  deriving DecidableEq, Repr

end Sys2Proof
end

