-- ==== Sys2Proof/WellFormed.lean ====
section
/-! DEFINITION. Well-formedness: the assembler's refusal of an operand that does not fit its field (R75), over
commands as an assembler reads them; and the conditions a parameter record must meet (R50, R8). A term of `Instr`
cannot hold an operand outside its field, so for it the check always succeeds (AssemblerRefusesWhatDoesNotFit). -/

namespace Sys2Proof

/-- The names of R47's nine single-bit fields, which may replace `reg, bit` in source text (R76 a). -/
inductive FieldName where
  | reset | pud | pua | pur | cs | cr | cals | calerr | pgacap
  deriving DecidableEq, Repr

/-- The (register, bit) pair a field name stands for (R76 a). -/
def FieldName.field (m : RegMap) : FieldName → BitField
  | .reset => m.fReset
  | .pud => m.fPud
  | .pua => m.fPua
  | .pur => m.fPur
  | .cs => m.fCs
  | .cr => m.fCr
  | .cals => m.fCals
  | .calerr => m.fCalerr
  | .pgacap => m.fPgacap

/-- The operand of a bit command in source text: two numbers, or a field's name (R75, R76 a). -/
inductive BitOperand where
  | pair (reg bit : Int)
  | name (f : FieldName)
  deriving DecidableEq, Repr

/-- A command as an assembler reads it (R75): operands are numbers of any size; the timeout of `CALAFE` and
`WAITCAL` may be left out (R76 b); `GETLED.NN` is `getled true`. -/
inductive Asm where
  | getbit (o : BitOperand)
  | setbit (o : BitOperand)
  | clrbit (o : BitOperand)
  | decode (raw : Int)
  | setgain (code : Int)
  | setrate (code : Int)
  | setldo (code : Int)
  | begin (ldo gain rate : Int)
  | calafe (tmo : Option Int)
  | waitcal (tmo : Option Int)
  | calstat
  | calzero (n : Int)
  | avail
  | getrd
  | getavg (n : Int)
  | getled (nonNegative : Bool)
  | scan
  | rdsr (idx : Int)
  | rdstate
  | rdzoff
  deriving DecidableEq, Repr

/-- The number is one of an unsigned field of `w` bits (R67). -/
def fitsUnsigned (w : Nat) (v : Int) : Bool := decide (0 ≤ v ∧ v < 2 ^ w)

/-- The number is one of a signed field of `w` bits (R67 d). -/
def fitsSigned (w : Nat) (v : Int) : Bool := decide (-(2 ^ (w - 1)) ≤ v ∧ v < 2 ^ (w - 1))

/-- A bit command's operand fits: register 0 to 255, bit 0 to 7 (R67 a). -/
def BitOperand.wf : BitOperand → Bool
  | .pair reg bit => fitsUnsigned 8 reg && fitsUnsigned 3 bit
  | .name _ => true

/-- A timeout operand fits, or is left out (R67 d, R76 b). -/
def timeoutFits : Option Int → Bool
  | some t => fitsSigned 24 t
  | none => true

/-- The assembler's check (R75): every operand fits its field; nothing is clamped. -/
def Asm.wf : Asm → Bool
  | .getbit o => o.wf
  | .setbit o => o.wf
  | .clrbit o => o.wf
  | .decode raw => fitsUnsigned 24 raw
  | .setgain code => fitsUnsigned 8 code
  | .setrate code => fitsUnsigned 8 code
  | .setldo code => fitsUnsigned 8 code
  | .begin ldo gain rate => fitsUnsigned 8 ldo && fitsUnsigned 8 gain && fitsUnsigned 8 rate
  | .calafe tmo => timeoutFits tmo
  | .waitcal tmo => timeoutFits tmo
  | .calstat => true
  | .calzero n => fitsUnsigned 16 n
  | .avail => true
  | .getrd => true
  | .getavg n => fitsUnsigned 16 n
  | .getled _ => true
  | .scan => true
  | .rdsr idx => fitsUnsigned 3 idx
  | .rdstate => true
  | .rdzoff => true

/-- A command written out as source text, its operands as numbers (R75's operand orders). -/
def Instr.source : Instr → Asm
  | .getbit reg bit => .getbit (.pair reg.toNat bit.toNat)
  | .setbit reg bit => .setbit (.pair reg.toNat bit.toNat)
  | .clrbit reg bit => .clrbit (.pair reg.toNat bit.toNat)
  | .decode raw => .decode raw.toNat
  | .setgain code => .setgain code.toNat
  | .setrate code => .setrate code.toNat
  | .setldo code => .setldo code.toNat
  | .begin ldo gain rate => .begin ldo.toNat gain.toNat rate.toNat
  | .calafe tmo => .calafe (some tmo.toInt)
  | .waitcal tmo => .waitcal (some tmo.toInt)
  | .calstat => .calstat
  | .calzero n => .calzero n.toNat
  | .avail => .avail
  | .getrd => .getrd
  | .getavg n => .getavg n.toNat
  | .getled cl => .getled cl
  | .scan => .scan
  | .rdsr idx => .rdsr idx.toNat
  | .rdstate => .rdstate
  | .rdzoff => .rdzoff

/-- A command is well-formed when its operands, as numbers, fit their fields. -/
abbrev Instr.WellFormed (i : Instr) : Prop := i.source.wf = true

/-- The field lies inside its byte (R50: `lsb` in 0..5). -/
def Field3.wf (f : Field3) : Bool := decide (f.lsb.toNat ≤ 5)

/-- Two 3-bit fields do not overlap in one register (R50). -/
def Field3.apart (f g : Field3) : Bool :=
  decide (f.reg ≠ g.reg ∨ f.lsb.toNat + 3 ≤ g.lsb.toNat ∨ g.lsb.toNat + 3 ≤ f.lsb.toNat)

/-- R50: what a register map must satisfy beyond the widths of its fields. -/
def RegMap.wf (m : RegMap) : Bool :=
  m.fldGain.wf && m.fldLdo.wf && m.fldRate.wf
    && m.fldGain.apart m.fldLdo && m.fldGain.apart m.fldRate && m.fldLdo.apart m.fldRate

/-- The sizes among R8's parameters fit the block: one to eight channels, samples of 1 to 24 bits, words of at least 32
bits (the source's lower bound). -/
def Config.sizesFit (c : Config) : Bool :=
  decide (1 ≤ c.nch.toNat ∧ c.nch.toNat ≤ 8) && decide (1 ≤ c.sampleBits ∧ c.sampleBits ≤ 24) && decide (32 ≤ c.xlen)

/-- A parameter record of R8 that keeps its lower bounds (reset settle at least 1 ms, LED settle at least 5 ms), a
3-bit largest code, at least one power-up poll, a largest count of at least 1, sizes that fit, and a well-formed
register map. -/
def Config.wf (c : Config) : Bool :=
  c.regMap.wf && c.sizesFit && decide (1 ≤ c.nmax.toNat) && decide (c.fieldMax.toNat ≤ 7) && decide (1 ≤ c.puPollMax.toNat)
    && decide (1 ≤ c.resetSettleMs.toNat) && decide (5 ≤ c.settleMs.toNat)

end Sys2Proof
end

