-- ==== Sys2Proof/Decode.lean ====
section
/-! DEFINITION. Decoding, total on every 32-bit word (R69, R70), the encoder, written from the same formats (R66),
and the assembler (R75, R76). -/

namespace Sys2Proof

/-- R66's nine formats. -/
inductive Format where
  | z | r | c | d | b | t | n | f | i
  deriving DecidableEq, Repr

/-- The bits a decoder compares (R66's last column). -/
def Format.mask : Format → Word
  | .z => 0xFFFFFFFF
  | .r => 0xFFFF00F8
  | .c => 0xFFFFFF00
  | .d => 0xFF000000
  | .b => 0xFF000000
  | .t => 0xFF000000
  | .n => 0xFFFF0000
  | .f => 0xFFFFFFFE
  | .i => 0xFFFFFFF8

/-- The reserved bits of a format: the compared bits below the opcode, which must be zero (R66, R69). -/
def Format.reserved (fmt : Format) : Word := fmt.mask &&& 0x00FFFFFF

/-- `cw[31:24]`, the opcode (R65). -/
def opcodeOf (cw : Word) : Byte := cw.extractLsb' 24 8

/-- `cw[23:16]` (format B: `ldo`). -/
def byte2 (cw : Word) : Byte := cw.extractLsb' 16 8

/-- `cw[15:8]` (format R: `reg`; format B: `gain`). -/
def byte1 (cw : Word) : Byte := cw.extractLsb' 8 8

/-- `cw[7:0]` (format C: `code`; format B: `rate`). -/
def byte0 (cw : Word) : Byte := cw.extractLsb' 0 8

/-- `cw[2:0]` (format R: `bit`; format I: `idx`). -/
def low3 (cw : Word) : BitVec 3 := cw.extractLsb' 0 3

/-- `cw[15:0]` (format N: `n`). -/
def low16 (cw : Word) : BitVec 16 := cw.extractLsb' 0 16

/-- `cw[23:0]` (formats D and T: `raw`, `tmo`). -/
def low24 (cw : Word) : Raw := cw.extractLsb' 0 24

/-- `cw[0]` (format F: `cl`). -/
def low1 (cw : Word) : Bool := cw.getLsbD 0

/-- One row of R68: an opcode, its format, and the command its operand fields make (R67). -/
structure Row where
  opc : Byte
  format : Format
  build : Word → Instr

/-- The row's `match` column: the opcode shifted to the top byte (R66, R68). -/
def Row.pattern (r : Row) : Word := r.opc ++ 0#24

/-- R68, in its order. Opcode 0x11 is deliberately absent. -/
def opcodeTable : List Row :=
  [ ⟨0x01, .r, fun cw => .getbit (byte1 cw) (low3 cw)⟩,
    ⟨0x02, .r, fun cw => .setbit (byte1 cw) (low3 cw)⟩,
    ⟨0x03, .r, fun cw => .clrbit (byte1 cw) (low3 cw)⟩,
    ⟨0x04, .d, fun cw => .decode (low24 cw)⟩,
    ⟨0x05, .c, fun cw => .setgain (byte0 cw)⟩,
    ⟨0x06, .c, fun cw => .setrate (byte0 cw)⟩,
    ⟨0x07, .c, fun cw => .setldo (byte0 cw)⟩ ] ++
  [ ⟨0x10, .b, fun cw => .begin (byte2 cw) (byte1 cw) (byte0 cw)⟩,
    ⟨0x12, .t, fun cw => .calafe (low24 cw)⟩,
    ⟨0x13, .t, fun cw => .waitcal (low24 cw)⟩,
    ⟨0x14, .z, fun _ => .calstat⟩,
    ⟨0x15, .n, fun cw => .calzero (low16 cw)⟩ ] ++
  [ ⟨0x20, .z, fun _ => .avail⟩,
    ⟨0x21, .z, fun _ => .getrd⟩,
    ⟨0x22, .n, fun cw => .getavg (low16 cw)⟩,
    ⟨0x23, .f, fun cw => .getled (low1 cw)⟩ ] ++
  [ ⟨0x30, .z, fun _ => .scan⟩,
    ⟨0x31, .i, fun cw => .rdsr (low3 cw)⟩,
    ⟨0x32, .z, fun _ => .rdstate⟩,
    ⟨0x33, .z, fun _ => .rdzoff⟩ ]

/-- R70: look the opcode up; absent, or a reserved bit of its format set: illegal (`none`); otherwise extract the
operand fields. No state takes part. -/
def decode (cw : Word) : Option Instr :=
  match opcodeTable.find? (fun row => row.opc == opcodeOf cw) with
  | none => none
  | some row => if cw &&& row.format.reserved = 0 then some (row.build cw) else none

/-- The word of a command: the opcode of R68 in the top byte, the fields of R66 below it, reserved bits zero. -/
def encode : Instr → Word
  | .getbit reg bit => 0x01#8 ++ 0#8 ++ reg ++ 0#5 ++ bit
  | .setbit reg bit => 0x02#8 ++ 0#8 ++ reg ++ 0#5 ++ bit
  | .clrbit reg bit => 0x03#8 ++ 0#8 ++ reg ++ 0#5 ++ bit
  | .decode raw => 0x04#8 ++ raw
  | .setgain code => 0x05#8 ++ 0#16 ++ code
  | .setrate code => 0x06#8 ++ 0#16 ++ code
  | .setldo code => 0x07#8 ++ 0#16 ++ code
  | .begin ldo gain rate => 0x10#8 ++ ldo ++ gain ++ rate
  | .calafe tmo => 0x12#8 ++ tmo
  | .waitcal tmo => 0x13#8 ++ tmo
  | .calstat => 0x14#8 ++ 0#24
  | .calzero n => 0x15#8 ++ 0#8 ++ n
  | .avail => 0x20#8 ++ 0#24
  | .getrd => 0x21#8 ++ 0#24
  | .getavg n => 0x22#8 ++ 0#8 ++ n
  | .getled cl => 0x23#8 ++ 0#23 ++ BitVec.ofBool cl
  | .scan => 0x30#8 ++ 0#24
  | .rdsr idx => 0x31#8 ++ 0#21 ++ idx
  | .rdstate => 0x32#8 ++ 0#24
  | .rdzoff => 0x33#8 ++ 0#24

/-- The (register, bit) pair of a bit command's operand (R75, R76 a). -/
def BitOperand.field (m : RegMap) : BitOperand → BitField
  | .pair reg bit => ⟨BitVec.ofInt 8 reg, BitVec.ofInt 3 bit⟩
  | .name f => f.field m

/-- The timeout of a command, the default where it is left out (R76 b). -/
def timeoutOperand (cfg : Config) : Option Int → Raw
  | some t => BitVec.ofInt 24 t
  | none => cfg.calTimeoutDefaultMs

/-- The command a source line stands for, its operands taken modulo their fields' sizes. -/
def Asm.command (cfg : Config) : Asm → Instr
  | .getbit o => .getbit (o.field cfg.regMap).reg (o.field cfg.regMap).bit
  | .setbit o => .setbit (o.field cfg.regMap).reg (o.field cfg.regMap).bit
  | .clrbit o => .clrbit (o.field cfg.regMap).reg (o.field cfg.regMap).bit
  | .decode raw => .decode (BitVec.ofInt 24 raw)
  | .setgain code => .setgain (BitVec.ofInt 8 code)
  | .setrate code => .setrate (BitVec.ofInt 8 code)
  | .setldo code => .setldo (BitVec.ofInt 8 code)
  | .begin ldo gain rate => .begin (BitVec.ofInt 8 ldo) (BitVec.ofInt 8 gain) (BitVec.ofInt 8 rate)
  | .calafe tmo => .calafe (timeoutOperand cfg tmo)
  | .waitcal tmo => .waitcal (timeoutOperand cfg tmo)
  | .calstat => .calstat
  | .calzero n => .calzero (BitVec.ofInt 16 n)
  | .avail => .avail
  | .getrd => .getrd
  | .getavg n => .getavg (BitVec.ofInt 16 n)
  | .getled nn => .getled nn
  | .scan => .scan
  | .rdsr idx => .rdsr (BitVec.ofInt 3 idx)
  | .rdstate => .rdstate
  | .rdzoff => .rdzoff

/-- The assembler (R75): a line whose operands do not fit is refused, never clamped. -/
def assemble (cfg : Config) (a : Asm) : Option Instr :=
  if a.wf then some (a.command cfg) else none

/-- The host's question: what the decoder reads from an instruction of `nbits` bits `w`. The command word is one
32-bit value with no byte order (R51, R65), so the table's bit numbers are the word's own. -/
def decodeTableWord (nbits w : Nat) : Option Instr := decode (BitVec.ofNat 32 (w % 2 ^ nbits))

end Sys2Proof
end

