-- ==== Sys2Proof/Machine/State.lean ====
section
/-! DEFINITION. The state: the block's registers (10_state.md), the command in execution and its position (R24), the
parameters (R8), the ports (R7), and the other agents on whose behaviour a step depends (R5), all as plain data. -/

namespace Sys2Proof.Machine

/-- The failure causes a command can end with (R165). -/
inductive Cause where
  /-- a bus interaction faulted (R166) -/
  | busFault
  /-- the last power-up-ready poll read 0 (R167) -/
  | powerUpTimeout
  /-- the calibration was still in progress after its timeout (R168) -/
  | calibrationTimeout
  /-- the device reported a calibration error (R169) -/
  | calibrationFailure
  /-- the samples did not arrive within the budget (R170) -/
  | sampleTimeout
  /-- `RDSR` before any scan has completed (R171) -/
  | noData
  /-- a sample count of 0 (R171) -/
  | illegalOperand
  /-- an illegal command word (R171) -/
  | illegalCommand
  deriving DecidableEq, Repr

/-- A response (R72): status code and 32-bit value. -/
structure Response where
  status : Byte
  value : Word
  deriving DecidableEq, Repr

/-- An event on one of the block's interfaces (R7). Bus events carry the device address they go to (R41). -/
inductive Event where
  /-- a command word is accepted (P1) -/
  | accept (cw : Word)
  /-- `MemRead(a, 1)`; `none` is a fault (P3, R42) -/
  | rd (dev : BitVec 7) (a : Byte) (v : Option Byte)
  /-- `MemRead(a, 3)`: the bytes in delivery order; `none` is a fault (P3, R44) -/
  | rdBlock (dev : BitVec 7) (a : Byte) (ys : Option (Byte × Byte × Byte))
  /-- `MemWrite(a, 1, v)`; `ok` false is a fault (P3, R43) -/
  | wr (dev : BitVec 7) (a : Byte) (v : Byte) (ok : Bool)
  /-- `Delay(k)` has returned (P5, R12) -/
  | delay (k : Word)
  /-- `Now()` has returned `t` (P5, R12) -/
  | now (t : Word)
  /-- `LedSet(i, on)` (P4, R150) -/
  | led (i : BitVec 3) (on : Bool)
  /-- a response is delivered (P2, R72) -/
  | resp (r : Response)
  /-- reset is asserted (P6, R185) -/
  | reset
  deriving DecidableEq, Repr

/-- Where a read-modify-write stands (R91, R92): before its read, or before its write, with the byte to write. -/
inductive RmwPos where
  | read
  | write (v : Byte)
  deriving DecidableEq, Repr

/-- Where `CalStatus` stands (R113): before the read of the start bit or of the error bit. -/
inductive StatPos where
  | startBit
  | errorBit
  deriving DecidableEq, Repr

/-- Where `WaitCal` stands (R114): before its first `Now`, in a status poll, before the `Now` of the timeout test, or
before the delay. -/
inductive WaitPos where
  | stamp
  | stat (p : StatPos)
  | clock
  | pause
  deriving DecidableEq, Repr

/-- Where `CalibrateAFE` stands (R115): setting the start bit, waiting, or setting the conversion-start bit. -/
inductive AfePos where
  | start (p : RmwPos)
  | wait (p : WaitPos)
  | convert (p : RmwPos)
  deriving DecidableEq, Repr

/-- Where `GetReading` stands (R138): before a poll, before the block read, or before the delay. -/
inductive ReadPos where
  | poll
  | sample
  | pause
  deriving DecidableEq, Repr

/-- Where `Average` stands (R139): before its first `Now`, a poll, the block read, the `Now` of the budget test, or
the delay. -/
inductive AvgPos where
  | stamp
  | poll
  | sample
  | clock
  | pause
  deriving DecidableEq, Repr

/-- Where `BEGIN` stands (R118): the sub-steps of `ResetDevice` (R111), `PowerUp` (R112), `ConfigureAnalog` (R116)
and `CalibrateAFE` (R115), in order. -/
inductive BeginPos where
  | resetSet (p : RmwPos)
  | resetHold
  | resetClear (p : RmwPos)
  | resetSettle
  | pud (p : RmwPos)
  | pua (p : RmwPos)
  | purPoll
  | purPause
  | ldo (p : RmwPos)
  | gain (p : RmwPos)
  | rate (p : RmwPos)
  | chop
  | pgacap (p : RmwPos)
  | afe (p : AfePos)
  deriving DecidableEq, Repr

/-- Where `SCAN` stands in the iteration of channel `CH` (R152): before turning the channel on, before the settle
delay, in `GetLed`, before turning it off; or before the `LedSet` of the failure action, with the cause to report. -/
inductive ScanPos where
  | lightOn
  | settle
  | reading (p : ReadPos)
  | lightOff
  | abort (c : Cause)
  deriving DecidableEq, Repr

/-- The command in execution with its operands, latched at acceptance, and the position reached in its pseudocode
(R24). `respond` is the position before the final response, the same for every command; its first part is `none`
for an illegal word (R69). The commands without interactions (`DECODE`, `RDSR`, `RDSTATE`, `RDZOFF`) have no other
position. -/
inductive Running where
  | respond (i : Option Instr) (r : Response)
  | getbit (reg : Byte) (bit : BitVec 3)
  | setbit (reg : Byte) (bit : BitVec 3) (p : RmwPos)
  | clrbit (reg : Byte) (bit : BitVec 3) (p : RmwPos)
  | setgain (code : Byte) (p : RmwPos)
  | setrate (code : Byte) (p : RmwPos)
  | setldo (code : Byte) (p : RmwPos)
  | begin (ldo gain rate : Byte) (p : BeginPos)
  | calafe (tmo : Raw) (p : AfePos)
  | waitcal (tmo : Raw) (p : WaitPos)
  | calstat (p : StatPos)
  | calzero (n : BitVec 16) (p : AvgPos)
  | avail
  | getrd (p : ReadPos)
  | getavg (n : BitVec 16) (p : AvgPos)
  | getled (cl : Bool) (p : ReadPos)
  | scan (p : ScanPos)
  deriving DecidableEq, Repr

/-- The command in execution (R24 a); `none` for an illegal word being answered. -/
def Running.instr : Running → Option Instr
  | .respond i _ => i
  | .getbit reg bit => some (.getbit reg bit)
  | .setbit reg bit _ => some (.setbit reg bit)
  | .clrbit reg bit _ => some (.clrbit reg bit)
  | .setgain code _ => some (.setgain code)
  | .setrate code _ => some (.setrate code)
  | .setldo code _ => some (.setldo code)
  | .begin ldo gain rate _ => some (.begin ldo gain rate)
  | .calafe tmo _ => some (.calafe tmo)
  | .waitcal tmo _ => some (.waitcal tmo)
  | .calstat _ => some .calstat
  | .calzero n _ => some (.calzero n)
  | .avail => some .avail
  | .getrd _ => some .getrd
  | .getavg n _ => some (.getavg n)
  | .getled cl _ => some (.getled cl)
  | .scan _ => some .scan

/-- The device's register space (R40): (address, byte) pairs, addresses strictly rising, no entry equal to what an
unlisted address reads as (Machine/Memory.lean). -/
abbrev Memory := List Host.Cell

/-- The machine. -/
structure State where
  /-- `CAL_STATE` (R20) -/
  calState : BitVec 3
  /-- `FCAUSE` (R21) -/
  fcause : Byte
  /-- `BUSY` (R22) -/
  busy : Bool
  /-- `ZOFF` (R25) -/
  zoff : Word
  /-- `SR[0..7]` (R26) -/
  sr : Vector Word 8
  /-- `SRV` (R27) -/
  srv : Bool
  /-- `CH` (R28) -/
  ch : BitVec 4
  /-- `W[0..7]` (R28) -/
  w : Vector Word 8
  /-- `LEDON.valid` (R28) -/
  ledonValid : Bool
  /-- `LEDON.idx` (R28) -/
  ledonIdx : BitVec 3
  /-- `ACC` (R29) -/
  acc : BitVec 48
  /-- `K` (R29) -/
  k : BitVec 16
  /-- `T0` (R29) -/
  t0 : Word
  /-- `ITER` (R29) -/
  iter : BitVec 7
  /-- the command in execution and its position (R24) -/
  run : Option Running
  /-- the parameters (R8); no step changes them -/
  cfg : Config
  /-- the command words at port P1, the oldest first (R7, R22) -/
  port : List Word
  /-- the events of all ports so far, newest first (R7); the model's own record (log 16) -/
  trace : List Event
  /-- `NOW`, the time base (R12, R33) -/
  now : Word
  /-- the device's registers (R31, R40) -/
  dev : Memory
  /-- the LED channels (R32) -/
  led : Vector Bool 8
  /-- what the device, time and the reset input do at the coming interactions (log 4, log 11) -/
  script : List Move
  /-- how many moves have been used, the argument of `Config.freeMove` (log 4) -/
  tick : Nat
  deriving DecidableEq, Repr

/-- No command ends the machine: every failure of this block is a response (R165, R176). The type has no constructor,
so nothing raises one. -/
inductive Fault where
  deriving DecidableEq, Repr

/-- A command without a meaning. -/
inductive Refusal where
  /-- raised only by an arm of `exec` whose command has no meaning yet (none has been left so); safe -/
  | notModelled (mnemonic : String)
  deriving DecidableEq, Repr

/-- The outcome of a step of this machine. -/
abbrev Out := Host.Outcome State Fault Refusal

/-- The machine right after reset (R34, R185). The working registers the spec leaves unspecified are 0 (log 2); the
parameters are R8's defaults (log 13); the environment starts quiet: no word presented, every device register 0x00
(log 5), every LED off (log 8), NOW at 0 (log 9), no scripted move (log 4). -/
def State.reset : State where
  calState := 0
  fcause := 0x00
  busy := false
  zoff := 0
  sr := Vector.replicate 8 0
  srv := false
  ch := 0
  w := Vector.replicate 8 0
  ledonValid := false
  ledonIdx := 0
  acc := 0
  k := 0
  t0 := 0
  iter := 0
  run := none
  cfg := Config.default
  port := []
  trace := []
  now := 0
  dev := []
  led := Vector.replicate 8 false
  script := []
  tick := 0

end Sys2Proof.Machine
end

