-- ==== Sys2Proof/Machine/Flags.lean ====
section
/-! DEFINITION. The block has no flags (R30): a command's outcome is its response. This file holds every status code
and result encoding (R72 to R74) and the codes of `CAL_STATE` (R20). -/

namespace Sys2Proof.Machine

/-- `OK` (R73). -/
def okCode : Byte := 0x00

/-- The status code of a cause (R73). -/
def Cause.code : Cause → Byte
  | .busFault => 0x01
  | .powerUpTimeout => 0x02
  | .calibrationTimeout => 0x03
  | .calibrationFailure => 0x04
  | .sampleTimeout => 0x05
  | .noData => 0x06
  | .illegalOperand => 0x0E
  | .illegalCommand => 0x0F

/-- `(OK, value)` (R72). -/
def okResponse (v : Word) : Response := ⟨okCode, v⟩

/-- `(code(X), 0)` (R13, R72, R173). -/
def failResponse (c : Cause) : Response := ⟨c.code, 0⟩

/-- A Boolean result (R74). -/
def boolWord (b : Bool) : Word := if b then 1 else 0

/-- A CalibrationStatus (R113). -/
inductive CalStatus where
  | inProgress
  | success
  | failure
  deriving DecidableEq, Repr

/-- A CalibrationStatus result (R74). -/
def CalStatus.word : CalStatus → Word
  | .inProgress => 0
  | .success => 1
  | .failure => 2

/-- Uninitialized (R20). -/
def calUninitialized : BitVec 3 := 0
/-- Reset (R20). -/
def calReset : BitVec 3 := 1
/-- PoweredUp (R20). -/
def calPoweredUp : BitVec 3 := 2
/-- AnalogConfigured (R20). -/
def calAnalogConfigured : BitVec 3 := 3
/-- Calibrating (R20). -/
def calCalibrating : BitVec 3 := 4
/-- Ready (R20). -/
def calReady : BitVec 3 := 5
/-- Faulted (R20). -/
def calFaulted : BitVec 3 := 6

/-- The word of `RDSTATE` (R74, R155): `{0[31:16], FCAUSE[7:0], 0[7:4], SRV, CAL_STATE[2:0]}`. -/
def stateWord (s : State) : Word := 0#16 ++ s.fcause ++ 0#4 ++ BitVec.ofBool s.srv ++ s.calState

end Sys2Proof.Machine
end

