-- ==== Sys2Proof/Machine/Memory.lean ====
section
/-! DEFINITION. The device's register space as a list of cells in one canonical form (R40). -/

namespace Sys2Proof.Machine

/-- What an unlisted register reads as: 0x00. DESIGN CHOICE, unsafe (log 5): the spec does not give the device's
power-on contents (91_not_in_source.md N7). -/
def unlistedByte : Byte := 0x00

/-- The byte at an address. -/
def Memory.get : Memory → Nat → Byte
  | [], _ => unlistedByte
  | (key, b) :: m, a => if key = a then b else Memory.get m a

/-- The cell of an address, or nothing where the byte is what an unlisted address reads as. -/
def cellOf (a : Nat) (v : Byte) : Memory := if v = unlistedByte then [] else [(a, v)]

/-- Store a byte at an address, keeping the canonical form. -/
def Memory.put : Memory → Nat → Byte → Memory
  | [], a, v => cellOf a v
  | (key, b) :: m, a, v =>
    if a < key then cellOf a v ++ (key, b) :: m
    else if a = key then cellOf a v ++ m
    else (key, b) :: Memory.put m a v

/-- The content of a device register (R31). -/
def Memory.read (m : Memory) (a : Byte) : Byte := Memory.get m a.toNat

/-- A device register takes a value. -/
def Memory.write (m : Memory) (a v : Byte) : Memory := Memory.put m a.toNat v

/-- Several registers take values, in order. -/
def Memory.writeAll (m : Memory) (changes : List (Byte × Byte)) : Memory :=
  changes.foldl (fun d c => Memory.write d c.1 c.2) m

/-- All keys lie at or above a bound and rise strictly; every key is an address of the space (R40); no entry equals
what an unlisted address reads as. -/
def Memory.wfFrom : Nat → Memory → Bool
  | _, [] => true
  | low, (key, b) :: m =>
    decide (low ≤ key) && decide (key < 256) && decide (b ≠ unlistedByte) && Memory.wfFrom (key + 1) m

/-- The canonical form. -/
def Memory.wf (m : Memory) : Bool := Memory.wfFrom 0 m

end Sys2Proof.Machine
end

