-- ==== Sys2Proof/Machine/Operands.lean ====
section
/-! DEFINITION. Operand forms and exact arithmetic: bit masks, the clamp, field insertion, timeouts, the sample
decoder, the truncated mean, elapsed time (R67, R91 to R94, R114, R139, R140, R145). -/

namespace Sys2Proof.Machine

/-- `v[bit] == 1` (R90). -/
def testBit (v : Byte) (bit : BitVec 3) : Bool := v.getLsbD bit.toNat

/-- `v | (1 << bit)` (R91). -/
def withBit (bit : BitVec 3) (v : Byte) : Byte := v ||| (1#8 <<< bit.toNat)

/-- `v & (0xFF ^ (1 << bit))` (R91). -/
def withoutBit (bit : BitVec 3) (v : Byte) : Byte := v &&& (0xFF#8 ^^^ (1#8 <<< bit.toNat))

/-- `Clamp3` (R93): saturation at the largest code of a 3-bit field, not truncation. -/
def clamp3 (cfg : Config) (c : Byte) : Byte := if c ≤ cfg.fieldMax then c else cfg.fieldMax

/-- `(v & (0xFF ^ (0b111 << lsb))) | (k << lsb)` (R92): the field takes the code, the other bits stay. -/
def withField (lsb : BitVec 3) (code v : Byte) : Byte :=
  (v &&& (0xFF#8 ^^^ (0b111#8 <<< lsb.toNat))) ||| (code <<< lsb.toNat)

/-- `sext_24(tmo)`: a timeout operand in milliseconds; 0 and below mean that the wait never times out (R67 d, R114). -/
def timeoutMs (tmo : Raw) : Int := tmo.toInt

/-- An integer stored as an `XLEN`-bit signed word (R8, R9), as the 32 bits a response carries of it (R72). -/
def wordOf (cfg : Config) (v : Int) : Word := (BitVec.ofInt cfg.xlen v).signExtend 32

/-- `sext_N(u)` with `N = SAMPLE_BITS` (R8, R9): the low bits of `u` as a two's-complement number. -/
def sampleValue (cfg : Config) (u : Raw) : Int := (u.setWidth cfg.sampleBits).toInt

/-- `DecodeSample` (R94): the three bytes in delivery order, assembled big-endian (R51), sign-extended. -/
def decodeSample (cfg : Config) (y0 y1 y2 : Byte) : Word := wordOf cfg (sampleValue cfg (y0 ++ y1 ++ y2))

/-- A sample count is accepted (R136): from 1 to `NMAX`. -/
def countFits (cfg : Config) (n : BitVec 16) : Bool := decide (n ≠ 0 ∧ n ≤ cfg.nmax)

/-- `ACC + s`: 48-bit signed addition of a sample (R139, R145 b). -/
def accumulate (acc : BitVec 48) (sample : Word) : BitVec 48 := acc + sample.signExtend 48

/-- `tdiv(ACC, n)`: the quotient rounded toward zero (R9, R139, R145 c). -/
def meanOf (cfg : Config) (acc : BitVec 48) (n : BitVec 16) : Word := wordOf cfg (acc.toInt.tdiv n.toNat)

/-- `elapsed(t0)` at time `now` (R12): modulo 2^32. -/
def elapsedSince (t0 now : Word) : Word := now - t0

/-- `GetLed`'s value (R140): the reading less the zero offset, clamped at 0 where asked. -/
def offsetReading (cfg : Config) (clamp : Bool) (reading zoff : Word) : Word :=
  if clamp && decide (reading.toInt - zoff.toInt < 0) then 0 else wordOf cfg (reading.toInt - zoff.toInt)

/-- The channel number `CH` holds while the loop of `SCAN` runs (R152). -/
def channelOf (ch : BitVec 4) : BitVec 3 := ch.truncate 3

end Sys2Proof.Machine
end

