-- ==== Sys2Proof/Machine/Ops.lean ====
section
/-! DEFINITION. The interactions of the block (R6, R11, R12, R150), each one step of the other agents together with
the block's own event; acceptance, failure (the one shared operation of R13 and R176) and the response; and the frame
every command's meaning is built on. -/

namespace Sys2Proof.Machine

/-! ## The other agents' part of a step -/

/-- The `j`-th coming move: scripted, or free once the script is used up (log 4). -/
def State.moveAt (s : State) (j : Nat) : Move :=
  match s.script[j]? with
  | some m => m
  | none => Config.freeMove (s.tick + j)

/-- The move of the interaction about to take place. -/
def State.nextMove (s : State) : Move := s.moveAt 0

/-- How far `NOW` advances over an interaction that waits at least `least` (R12): in the normative profile any value
not below `least`; in the exact profile `least` itself. -/
def timePassed (profile : TimeProfile) (least elapse : Word) : Word :=
  match profile with
  | .lowerBound => if elapse < least then least else elapse
  | .exact => least

/-- The device and time move (R5, R6, R12): time passes, at least `least` milliseconds, and the device changes its
registers as it likes. Uses up one move; touches no register of the block, and no LED channel (DESIGN CHOICE, log 20:
what the platform does for R188 is not part of a run). -/
def State.environ (s : State) (least : Word) : State :=
  { s with
    now := s.now + timePassed s.cfg.timeProfile least s.nextMove.elapse
    dev := Memory.writeAll s.dev s.nextMove.changes
    script := s.script.tail
    tick := s.tick + 1 }

/-- An event takes place on a port (R7). -/
def State.log (s : State) (e : Event) : State := { s with trace := e :: s.trace }

/-! ## Interactions -/

/-- What `MemRead(a, 1)` answers: the device's byte at that moment, or a fault (R42, R45). -/
def State.readAnswer (s : State) (a : Byte) : Option Byte :=
  match s.nextMove.busFault with
  | none => some (Memory.read (s.environ 0).dev a)
  | some _ => none

/-- `MemRead(a, 1)` (R11, R42): one interaction. -/
def memRead (a : Byte) (s : State) : Option Byte × State :=
  (s.readAnswer a, (s.environ 0).log (.rd s.cfg.devAddr a (s.readAnswer a)))

/-- What `MemRead(a, 3)` answers: three registers in ascending address order, the address an 8-bit number, in delivery
order; or a fault (R44, R45; log 6). -/
def State.blockAnswer (s : State) (a : Byte) : Option (Byte × Byte × Byte) :=
  match s.nextMove.busFault with
  | none =>
    some (Memory.read (s.environ 0).dev a, Memory.read (s.environ 0).dev (a + 1), Memory.read (s.environ 0).dev (a + 2))
  | some _ => none

/-- `MemRead(a, 3)` (R11, R44): one interaction. -/
def memReadBlock (a : Byte) (s : State) : Option (Byte × Byte × Byte) × State :=
  (s.blockAnswer a, (s.environ 0).log (.rdBlock s.cfg.devAddr a (s.blockAnswer a)))

/-- Whether `MemWrite` succeeds (R43, R45). -/
def State.writeOk (s : State) : Bool := s.nextMove.busFault.isNone

/-- What the addressed register holds after a write of `v`: `v`, or after a fault whatever the device chose (R43, U3). -/
def State.writtenByte (s : State) (v : Byte) : Byte := s.nextMove.busFault.getD v

/-- `MemWrite(a, 1, v)` (R11, R43): one interaction. -/
def memWrite (a v : Byte) (s : State) : Bool × State :=
  (s.writeOk,
    { (s.environ 0).log (.wr s.cfg.devAddr a v s.writeOk) with
      dev := Memory.write (s.environ 0).dev a (s.writtenByte v) })

/-- `Delay(k)` (R12): one interaction. -/
def delay (k : Word) (s : State) : State := (s.environ k).log (.delay k)

/-- `Now()` (R12): one interaction; its result is `NOW` in the state it leaves. -/
def readNow (s : State) : State := (s.environ 0).log (.now (s.environ 0).now)

/-- One LED channel takes a value; the other seven stay (R150). -/
def setChannel (led : Vector Bool 8) (i : BitVec 3) (on : Bool) : Vector Bool 8 := led.set i.toNat on i.isLt

/-- `LedSet(i, on)` (R150): one interaction; it cannot fail. -/
def ledSet (i : BitVec 3) (on : Bool) (s : State) : State :=
  { (s.environ 0).log (.led i on) with led := setChannel s.led i on }

/-! ## Register updates, each the one the pseudocode writes at a place -/

/-- `CAL_STATE` takes a value (R20, R110): only `BEGIN` calls this. -/
def setCalState (c : BitVec 3) (s : State) : State := { s with calState := c }

/-- `BEGIN`'s first action (R118): `CAL_STATE` becomes Uninitialized and `FCAUSE` 0x00. -/
def State.uninitialize (s : State) : State := { s with calState := calUninitialized, fcause := 0x00 }

/-- `BEGIN`'s failure action (R118): `CAL_STATE` becomes Faulted and `FCAUSE` the code. -/
def State.faulted (s : State) (c : Cause) : State := { s with calState := calFaulted, fcause := c.code }

/-- `T0` takes the time just read (R114, R139). -/
def State.stamp (s : State) : State := { s with t0 := s.now }

/-- `ACC` and `K` become 0 (R139). -/
def State.clearSum (s : State) : State := { s with acc := 0, k := 0 }

/-- `ACC` takes the sample in, and `K` counts it (R139). -/
def State.addSample (s : State) (v : Word) : State := { s with acc := accumulate s.acc v, k := s.k + 1 }

/-- `ITER` becomes 0 (R112). -/
def State.clearPolls (s : State) : State := { s with iter := 0 }

/-- `ITER` counts a poll (R112). -/
def State.countPoll (s : State) : State := { s with iter := s.iter + 1 }

/-- `ZOFF` takes a value (R25): only `CALZERO` calls this. -/
def State.setZoff (s : State) (v : Word) : State := { s with zoff := v }

/-- `SCAN`'s first action (R152): `LEDON` becomes invalid and `CH` 0. -/
def State.startScan (s : State) : State := { s with ledonValid := false, ch := 0 }

/-- `LEDON` names the channel just turned on (R152). -/
def State.lit (s : State) (i : BitVec 3) : State := { s with ledonValid := true, ledonIdx := i }

/-- `LEDON` becomes invalid (R152); its index stays (log 3). -/
def State.unlit (s : State) : State := { s with ledonValid := false }

/-- A register file of eight words with one of them changed (R26, R28). -/
def setResult (v : Vector Word 8) (i : BitVec 3) (x : Word) : Vector Word 8 := v.set i.toNat x i.isLt

/-- `W[CH]` takes a value (R152). -/
def State.gather (s : State) (v : Word) : State := { s with w := setResult s.w (channelOf s.ch) v }

/-- The loop of `SCAN` goes to the next channel (R152). -/
def State.nextChannel (s : State) : State := { s with ch := s.ch + 1 }

/-- The results of a scan of `nch` channels: those take the gathered values (R152); with `NCH` = 8 these are all. -/
def committed (nch : BitVec 4) (w sr : Vector Word 8) : Vector Word 8 :=
  Vector.ofFn fun i => if i.val < nch.toNat then w[i] else sr[i]

/-- `SCAN`'s last action (R152): `CH` becomes `NCH`, the results take the gathered values and `SRV` becomes 1. -/
def State.commit (s : State) : State :=
  { s with ch := s.cfg.nch, sr := committed s.cfg.nch s.w s.sr, srv := true }

/-! ## A command's course -/

/-- The words left at the port once the first has been taken (R22). -/
def State.withPort (s : State) (rest : List Word) : State := { s with port := rest }

/-- A command word is accepted (R22): `BUSY` becomes 1. -/
def State.accept (s : State) (cw : Word) : State := { s.log (.accept cw) with busy := true }

/-- The command in execution reaches a position (R24 b). -/
def State.goto (s : State) (r : Running) : State := { s with run := some r }

/-- A command has its result; only the response is left. -/
def State.answer (s : State) (i : Instr) (v : Word) : State := s.goto (.respond (some i) (okResponse v))

/-- `raise X` (R13, R176), the one shared operation of every failure: the running procedures are abandoned (the
position moves), the command's failure action is run (R118 for `BEGIN`, R152 for `SCAN`, none for the others), and
the response `(code(X), 0)` is left to deliver. Nothing already done is undone (R177). -/
def State.raise (s : State) (i : Instr) (c : Cause) : State :=
  match i with
  | .begin _ _ _ => (s.faulted c).goto (.respond (some i) (failResponse c))
  | .scan => s.goto (if s.ledonValid then .scan (.abort c) else .respond (some i) (failResponse c))
  | .getbit _ _ | .setbit _ _ | .clrbit _ _ | .decode _ | .setgain _ | .setrate _ | .setldo _ | .calafe _
  | .waitcal _ | .calstat | .calzero _ | .avail | .getrd | .getavg _ | .getled _ | .rdsr _ | .rdstate | .rdzoff =>
    s.goto (.respond (some i) (failResponse c))

/-- The response is delivered, and in the same step `BUSY` is cleared (R72): one interaction, the last of its command.
There is no return from a failure beside it (R178). -/
def State.deliver (s : State) (r : Response) : State :=
  { (s.environ 0).log (.resp r) with busy := false, run := none }

/-- What a step of a procedure leads to: another position of it, its result, or a failure. -/
inductive Res (π α : Type) where
  | goto (p : π)
  | done (a : α)
  | raise (c : Cause)

/-- A procedure called by command `i` goes on: its position becomes the command's, its result goes to the rest of the
command, its failure ends the command. -/
def resume {π α : Type} (i : Instr) (position : π → Running) (rest : α → State → State) (r : Res π α × State) : State :=
  match r with
  | (.goto p, s) => s.goto (position p)
  | (.done a, s) => rest a s
  | (.raise c, s) => s.raise i c

/-- The frame of a meaning (R6, R22, R24). Not busy: command `i` is accepted and `start` does what its pseudocode has
before its first interaction. Busy with `i`: its next interaction, the final response or the one `body` gives for the
position. Busy with another command: `i` is not accepted and has no effect. -/
def command (i : Instr) (start : State → State) (body : Running → State → State) (s : State) : Out :=
  .next
    (if s.busy then
      match s.run with
      | none => s
      | some (.respond j r) => if j = some i then s.deliver r else s
      | some r => if r.instr = some i then body r s else s
    else start (s.accept (encode i)))

end Sys2Proof.Machine
end

