-- ==== Sys2Proof/Machine/Driver.lean ====
section
/-! DEFINITION. The register driver (40_register_driver.md): the procedures `GetBit`, `SetBit`, `ClearBit`,
`WriteField`, and the commands GETBIT, SETBIT, CLRBIT, DECODE, SETGAIN, SETRATE, SETLDO. -/

namespace Sys2Proof.Machine

/-- `GetBit(f)` (R90): one bus read; `none` is a bus fault, never a value. -/
def getBit (f : BitField) (s : State) : Option Bool × State :=
  ((memRead f.reg s).1.map (testBit · f.bit), (memRead f.reg s).2)

/-- A read-modify-write of a register (R53, R91, R92): a read, then a write of the changed byte; a fault of either
raises `BusFault`, and after a faulting read no write is issued (R95). -/
def readModifyWrite (reg : Byte) (change : Byte → Byte) (p : RmwPos) (s : State) : Res RmwPos Unit × State :=
  match p with
  | .read =>
    match memRead reg s with
    | (some v, s) => (.goto (.write (change v)), s)
    | (none, s) => (.raise .busFault, s)
  | .write v =>
    match memWrite reg v s with
    | (true, s) => (.done (), s)
    | (false, s) => (.raise .busFault, s)

/-- `SetBit(f)` (R91). -/
def setBit (f : BitField) (p : RmwPos) (s : State) : Res RmwPos Unit × State :=
  readModifyWrite f.reg (withBit f.bit) p s

/-- `ClearBit(f)` (R91). -/
def clearBit (f : BitField) (p : RmwPos) (s : State) : Res RmwPos Unit × State :=
  readModifyWrite f.reg (withoutBit f.bit) p s

/-- `WriteField(fld, c)` (R92): the code is clamped; the field takes it and the other five bits stay. -/
def writeField (f : Field3) (c : Byte) (p : RmwPos) (s : State) : Res RmwPos Unit × State :=
  readModifyWrite f.reg (withField f.lsb (clamp3 s.cfg c)) p s

/-- The clamped code as a result word (R74, R92). -/
def codeWord (cfg : Config) (c : Byte) : Word := (clamp3 cfg c).zeroExtend 32

/-- `GETBIT reg, bit` (R97). -/
def execGetbit (reg : Byte) (bit : BitVec 3) (s : State) : Out :=
  command (.getbit reg bit) (fun s => s.goto (.getbit reg bit))
    (fun _ s =>
      match getBit ⟨reg, bit⟩ s with
      | (some b, s) => s.answer (.getbit reg bit) (boolWord b)
      | (none, s) => s.raise (.getbit reg bit) .busFault)
    s

/-- `SETBIT reg, bit` (R98). -/
def execSetbit (reg : Byte) (bit : BitVec 3) (s : State) : Out :=
  command (.setbit reg bit) (fun s => s.goto (.setbit reg bit .read))
    (fun r s =>
      match r with
      | .setbit _ _ p =>
        resume (.setbit reg bit) (.setbit reg bit) (fun _ s => s.answer (.setbit reg bit) 0) (setBit ⟨reg, bit⟩ p s)
      | _ => s)
    s

/-- `CLRBIT reg, bit` (R99). -/
def execClrbit (reg : Byte) (bit : BitVec 3) (s : State) : Out :=
  command (.clrbit reg bit) (fun s => s.goto (.clrbit reg bit .read))
    (fun r s =>
      match r with
      | .clrbit _ _ p =>
        resume (.clrbit reg bit) (.clrbit reg bit) (fun _ s => s.answer (.clrbit reg bit) 0) (clearBit ⟨reg, bit⟩ p s)
      | _ => s)
    s

/-- `DECODE raw` (R100): no interaction but the response. -/
def execDecode (raw : Raw) (s : State) : Out :=
  command (.decode raw)
    (fun s =>
      s.answer (.decode raw)
        (decodeSample s.cfg (raw.extractLsb' 16 8) (raw.extractLsb' 8 8) (raw.extractLsb' 0 8)))
    (fun _ s => s) s

/-- `SETGAIN code` (R101). -/
def execSetgain (code : Byte) (s : State) : Out :=
  command (.setgain code) (fun s => s.goto (.setgain code .read))
    (fun r s =>
      match r with
      | .setgain _ p =>
        resume (.setgain code) (.setgain code) (fun _ s => s.answer (.setgain code) (codeWord s.cfg code))
          (writeField s.cfg.regMap.fldGain code p s)
      | _ => s)
    s

/-- `SETRATE code` (R102). -/
def execSetrate (code : Byte) (s : State) : Out :=
  command (.setrate code) (fun s => s.goto (.setrate code .read))
    (fun r s =>
      match r with
      | .setrate _ p =>
        resume (.setrate code) (.setrate code) (fun _ s => s.answer (.setrate code) (codeWord s.cfg code))
          (writeField s.cfg.regMap.fldRate code p s)
      | _ => s)
    s

/-- `SETLDO code` (R103). -/
def execSetldo (code : Byte) (s : State) : Out :=
  command (.setldo code) (fun s => s.goto (.setldo code .read))
    (fun r s =>
      match r with
      | .setldo _ p =>
        resume (.setldo code) (.setldo code) (fun _ s => s.answer (.setldo code) (codeWord s.cfg code))
          (writeField s.cfg.regMap.fldLdo code p s)
      | _ => s)
    s

end Sys2Proof.Machine
end

