-- ==== Sys2Proof/Machine/Sampling.lean ====
section
/-! DEFINITION. Sampling (42_sampling.md): the procedures `Available`, `ReadSample`, `GetReading`, `Average`, `GetLed`,
and the commands AVAIL, GETRD, GETAVG, GETLED. -/

namespace Sys2Proof.Machine

/-- `Available()` (R135): the cycle-ready bit. -/
def available (s : State) : Option Bool × State := getBit s.cfg.regMap.fCr s

/-- `ReadSample()` (R137): the block read at the ADC-output-high register and the decode; `none` is a bus fault. -/
def readSample (s : State) : Option Word × State :=
  ((memReadBlock s.cfg.regMap.regAdcoB2 s).1.map (fun y => decodeSample s.cfg y.1 y.2.1 y.2.2),
    (memReadBlock s.cfg.regMap.regAdcoB2 s).2)

/-- `GetReading()` (R138): poll, delay, poll, ... with no bound, until the poll reads 1; then one sample. -/
def getReading (p : ReadPos) (s : State) : Res ReadPos Word × State :=
  match p with
  | .poll =>
    match available s with
    | (some true, s) => (.goto .sample, s)
    | (some false, s) => (.goto .pause, s)
    | (none, s) => (.raise .busFault, s)
  | .sample =>
    match readSample s with
    | (some v, s) => (.done v, s)
    | (none, s) => (.raise .busFault, s)
  | .pause => (.goto .poll, delay s.cfg.rdPollMs s)

/-- `Average(n)` (R139): exactly `n` samples within the budget; the count is tested before the time, the time strictly;
the quotient is rounded toward zero. -/
def average (n : BitVec 16) (p : AvgPos) (s : State) : Res AvgPos Word × State :=
  match p with
  | .stamp => (.goto .poll, (readNow s).stamp.clearSum)
  | .poll =>
    match available s with
    | (some true, s) => (.goto .sample, s)
    | (some false, s) => (.goto .clock, s)
    | (none, s) => (.raise .busFault, s)
  | .sample =>
    match readSample s with
    | (some v, s) =>
      (if s.k + 1 = n then .done (meanOf s.cfg (accumulate s.acc v) n) else .goto .clock, s.addSample v)
    | (none, s) => (.raise .busFault, s)
  | .clock =>
    (if s.cfg.avgBudgetMs < elapsedSince s.t0 (readNow s).now then .raise .sampleTimeout else .goto .pause, readNow s)
  | .pause => (.goto .poll, delay s.cfg.avgPollMs s)

/-- `AVAIL` (R141). -/
def execAvail (s : State) : Out :=
  command .avail (fun s => s.goto .avail)
    (fun _ s =>
      match available s with
      | (some b, s) => s.answer .avail (boolWord b)
      | (none, s) => s.raise .avail .busFault)
    s

/-- `GETRD` (R142). -/
def execGetrd (s : State) : Out :=
  command .getrd (fun s => s.goto (.getrd .poll))
    (fun r s =>
      match r with
      | .getrd p => resume .getrd .getrd (fun v s => s.answer .getrd v) (getReading p s)
      | _ => s)
    s

/-- `GETAVG n` (R143): a count of 0, or above `NMAX`, is refused before any interaction (R136; log 14). -/
def execGetavg (n : BitVec 16) (s : State) : Out :=
  command (.getavg n)
    (fun s => if countFits s.cfg n then s.goto (.getavg n .stamp) else s.raise (.getavg n) .illegalOperand)
    (fun r s =>
      match r with
      | .getavg _ p => resume (.getavg n) (.getavg n) (fun v s => s.answer (.getavg n) v) (average n p s)
      | _ => s)
    s

/-- `GETLED` and `GETLED.NN` (R140, R144). -/
def execGetled (cl : Bool) (s : State) : Out :=
  command (.getled cl) (fun s => s.goto (.getled cl .poll))
    (fun r s =>
      match r with
      | .getled _ p =>
        resume (.getled cl) (.getled cl) (fun v s => s.answer (.getled cl) (offsetReading s.cfg cl v s.zoff)) (getReading p s)
      | _ => s)
    s

end Sys2Proof.Machine
end

