-- ==== Sys2Proof/Machine/Calibration.lean ====
section
/-! DEFINITION. The calibration controller (41_calibration.md): the procedures `CalStatus`, `WaitCal`, `CalibrateAFE`,
and the commands BEGIN, CALAFE, WAITCAL, CALSTAT, CALZERO. -/

namespace Sys2Proof.Machine

/-- How `WaitCal` ends (R114). -/
inductive WaitResult where
  | success
  | failure
  | timedOut
  deriving DecidableEq, Repr

/-- `CalStatus()` (R113): the start bit decides alone when set; the error bit is read only when the start bit was read
as 0, by a bus read of its own (R55). -/
def calStatus (p : StatPos) (s : State) : Res StatPos CalStatus × State :=
  match p with
  | .startBit =>
    match getBit s.cfg.regMap.fCals s with
    | (some true, s) => (.done .inProgress, s)
    | (some false, s) => (.goto .errorBit, s)
    | (none, s) => (.raise .busFault, s)
  | .errorBit =>
    match getBit s.cfg.regMap.fCalerr s with
    | (some true, s) => (.done .failure, s)
    | (some false, s) => (.done .success, s)
    | (none, s) => (.raise .busFault, s)

/-- `WaitCal(t)` (R114): the start time once; then status, and only while in progress and only when `t > 0` the time
test, strict; then the delay. -/
def waitCal (t : Int) (p : WaitPos) (s : State) : Res WaitPos WaitResult × State :=
  match p with
  | .stamp => (.goto (.stat .startBit), (readNow s).stamp)
  | .stat q =>
    match calStatus q s with
    | (.goto q', s) => (.goto (.stat q'), s)
    | (.done .inProgress, s) => (.goto (if 0 < t then .clock else .pause), s)
    | (.done .success, s) => (.done .success, s)
    | (.done .failure, s) => (.done .failure, s)
    | (.raise c, s) => (.raise c, s)
  | .clock =>
    (if 0 < t ∧ t < (elapsedSince s.t0 (readNow s).now).toNat then .done .timedOut else .goto .pause, readNow s)
  | .pause => (.goto (.stat .startBit), delay s.cfg.calPollMs s)

/-- `CalibrateAFE(t, on_started)` (R115): set the calibration-start bit, wait, and only on success set the
conversion-start bit. -/
def calibrateAfe (t : Int) (onStarted : State → State) (p : AfePos) (s : State) : Res AfePos Unit × State :=
  match p with
  | .start q =>
    match setBit s.cfg.regMap.fCals q s with
    | (.goto q', s) => (.goto (.start q'), s)
    | (.done _, s) => (.goto (.wait .stamp), onStarted s)
    | (.raise c, s) => (.raise c, s)
  | .wait q =>
    match waitCal t q s with
    | (.goto q', s) => (.goto (.wait q'), s)
    | (.done .success, s) => (.goto (.convert .read), s)
    | (.done .failure, s) => (.raise .calibrationFailure, s)
    | (.done .timedOut, s) => (.raise .calibrationTimeout, s)
    | (.raise c, s) => (.raise c, s)
  | .convert q =>
    match setBit s.cfg.regMap.fCs q s with
    | (.goto q', s) => (.goto (.convert q'), s)
    | (.done _, s) => (.done (), s)
    | (.raise c, s) => (.raise c, s)

/-- One poll of `PowerUp`'s loop (R112): the first poll that reads 1 ends it; a poll that reads 0 and was the last
allowed raises `PowerUpTimeout`; otherwise a delay follows. The result says whether the device is ready. -/
def powerUpPoll (s : State) : Res Unit Unit × State :=
  match getBit s.cfg.regMap.fPur s with
  | (some true, s) => (.done (), s.countPoll)
  | (some false, s) =>
    (if s.iter + 1 = s.cfg.puPollMax then .raise .powerUpTimeout else .goto (), s.countPoll)
  | (none, s) => (.raise .busFault, s)

/-- `BEGIN ldo, gain, rate` (R118), with `ResetDevice` (R111), `PowerUp` (R112), `ConfigureAnalog` (R116) and
`CalibrateAFE` (R115) in place. Each write of `CAL_STATE` belongs to the step of the interaction before it (R110). -/
def execBegin (ldo gain rate : Byte) (s : State) : Out :=
  let i : Instr := .begin ldo gain rate
  let at_ : BeginPos → Running := .begin ldo gain rate
  command i
    (fun s => s.uninitialize.goto (at_ (.resetSet .read)))
    (fun r s =>
      match r with
      | .begin _ _ _ p =>
        match p with
        | .resetSet q =>
          resume i (at_ <| .resetSet ·) (fun _ s => s.goto (at_ .resetHold)) (setBit s.cfg.regMap.fReset q s)
        | .resetHold => (delay s.cfg.resetSettleMs s).goto (at_ (.resetClear .read))
        | .resetClear q =>
          resume i (at_ <| .resetClear ·) (fun _ s => s.goto (at_ .resetSettle)) (clearBit s.cfg.regMap.fReset q s)
        | .resetSettle => (setCalState calReset (delay s.cfg.resetSettleMs s)).goto (at_ (.pud .read))
        | .pud q => resume i (at_ <| .pud ·) (fun _ s => s.goto (at_ (.pua .read))) (setBit s.cfg.regMap.fPud q s)
        | .pua q =>
          resume i (at_ <| .pua ·) (fun _ s => s.clearPolls.goto (at_ .purPoll)) (setBit s.cfg.regMap.fPua q s)
        | .purPoll =>
          resume i (fun _ => at_ .purPause) (fun _ s => (setCalState calPoweredUp s).goto (at_ (.ldo .read)))
            (powerUpPoll s)
        | .purPause => (delay s.cfg.puPollMs s).goto (at_ .purPoll)
        | .ldo q =>
          resume i (at_ <| .ldo ·) (fun _ s => s.goto (at_ (.gain .read))) (writeField s.cfg.regMap.fldLdo ldo q s)
        | .gain q =>
          resume i (at_ <| .gain ·) (fun _ s => s.goto (at_ (.rate .read))) (writeField s.cfg.regMap.fldGain gain q s)
        | .rate q =>
          resume i (at_ <| .rate ·) (fun _ s => s.goto (at_ .chop)) (writeField s.cfg.regMap.fldRate rate q s)
        | .chop =>
          match memWrite s.cfg.regMap.regChop s.cfg.regMap.chopValue s with
          | (true, s) => s.goto (at_ (.pgacap .read))
          | (false, s) => s.raise i .busFault
        | .pgacap q =>
          resume i (at_ <| .pgacap ·)
            (fun _ s => (setCalState calAnalogConfigured s).goto (at_ (.afe (.start .read))))
            (setBit s.cfg.regMap.fPgacap q s)
        | .afe q =>
          resume i (at_ <| .afe ·) (fun _ s => (setCalState calReady s).answer i 0)
            (calibrateAfe (timeoutMs s.cfg.calTimeoutDefaultMs) (setCalState calCalibrating) q s)
      | _ => s)
    s

/-- `CALAFE tmo` (R119). -/
def execCalafe (tmo : Raw) (s : State) : Out :=
  command (.calafe tmo) (fun s => s.goto (.calafe tmo (.start .read)))
    (fun r s =>
      match r with
      | .calafe _ p =>
        resume (.calafe tmo) (.calafe tmo) (fun _ s => s.answer (.calafe tmo) 0)
          (calibrateAfe (timeoutMs tmo) id p s)
      | _ => s)
    s

/-- `WAITCAL tmo` (R120). -/
def execWaitcal (tmo : Raw) (s : State) : Out :=
  command (.waitcal tmo) (fun s => s.goto (.waitcal tmo .stamp))
    (fun r s =>
      match r with
      | .waitcal _ p =>
        resume (.waitcal tmo) (.waitcal tmo)
          (fun w s =>
            match w with
            | .success => s.answer (.waitcal tmo) CalStatus.success.word
            | .failure => s.raise (.waitcal tmo) .calibrationFailure
            | .timedOut => s.raise (.waitcal tmo) .calibrationTimeout)
          (waitCal (timeoutMs tmo) p s)
      | _ => s)
    s

/-- `CALSTAT` (R121): a status of Failure is a result, not a failure of the command. -/
def execCalstat (s : State) : Out :=
  command .calstat (fun s => s.goto (.calstat .startBit))
    (fun r s =>
      match r with
      | .calstat p => resume .calstat .calstat (fun st s => s.answer .calstat st.word) (calStatus p s)
      | _ => s)
    s

/-- `CALZERO n` (R122): the mean becomes `ZOFF`, only on success; a count of 0, or above `NMAX`, is refused before any
interaction (R136; log 14). -/
def execCalzero (n : BitVec 16) (s : State) : Out :=
  command (.calzero n)
    (fun s => if countFits s.cfg n then s.goto (.calzero n .stamp) else s.raise (.calzero n) .illegalOperand)
    (fun r s =>
      match r with
      | .calzero _ p =>
        resume (.calzero n) (.calzero n) (fun v s => (s.setZoff v).answer (.calzero n) v) (average n p s)
      | _ => s)
    s

end Sys2Proof.Machine
end

