-- ==== Sys2Proof/Machine/Scan.lean ====
section
/-! DEFINITION. The scan sequencer and the state reads (43_scan.md): SCAN, RDSR, RDSTATE, RDZOFF. -/

namespace Sys2Proof.Machine

/-- The result register of a channel (R26, R154). -/
def resultAt (v : Vector Word 8) (i : BitVec 3) : Word := v[i.toNat]'i.isLt

/-- Channel `CH` has been turned off (R152): the next iteration, or after the last channel the commit of all results
with `SRV`, in the same step. -/
def scanNext (s : State) : State :=
  if s.ch + 1 = s.cfg.nch then s.commit.answer .scan 0 else s.nextChannel.goto (.scan .lightOn)

/-- `SCAN` (R152). The readings are not clamped; if `GetLed` fails, the lit channel is turned off before the failure is
reported. -/
def execScan (s : State) : Out :=
  command .scan (fun s => s.startScan.goto (.scan .lightOn))
    (fun r s =>
      match r with
      | .scan p =>
        match p with
        | .lightOn =>
          ((ledSet (channelOf s.ch) true s).lit (channelOf s.ch)).goto (.scan .settle)
        | .settle => (delay s.cfg.settleMs s).goto (.scan (.reading .poll))
        | .reading q =>
          resume .scan (.scan <| .reading ·)
            (fun v s => (s.gather (offsetReading s.cfg false v s.zoff)).goto (.scan .lightOff)) (getReading q s)
        | .lightOff => scanNext (ledSet (channelOf s.ch) false s).unlit
        | .abort c =>
          (ledSet s.ledonIdx false s).unlit.goto (.respond (some .scan) (failResponse c))
      | _ => s)
    s

/-- `RDSR idx` (R154): `NoData` while no scan has completed. -/
def execRdsr (idx : BitVec 3) (s : State) : Out :=
  command (.rdsr idx)
    (fun s => if s.srv then s.answer (.rdsr idx) (resultAt s.sr idx) else s.raise (.rdsr idx) .noData)
    (fun _ s => s) s

/-- `RDSTATE` (R155). -/
def execRdstate (s : State) : Out :=
  command .rdstate (fun s => s.answer .rdstate (stateWord s)) (fun _ s => s) s

/-- `RDZOFF` (R156). -/
def execRdzoff (s : State) : Out :=
  command .rdzoff (fun s => s.answer .rdzoff s.zoff) (fun _ s => s) s

end Sys2Proof.Machine
end

