-- ==== Sys2Proof/Machine/Dispatch.lean ====
section
/-! DEFINITION. One arm per command: each calls its meaning. -/

namespace Sys2Proof.Machine

open Sys2Proof

def exec (i : Instr) (s : State) : Host.Outcome State Fault Refusal :=
  match i with
  | .getbit reg bit => Sys2Proof.Machine.execGetbit reg bit s
  | .setbit reg bit => Sys2Proof.Machine.execSetbit reg bit s
  | .clrbit reg bit => Sys2Proof.Machine.execClrbit reg bit s
  | .decode raw => Sys2Proof.Machine.execDecode raw s
  | .setgain code => Sys2Proof.Machine.execSetgain code s
  | .setrate code => Sys2Proof.Machine.execSetrate code s
  | .setldo code => Sys2Proof.Machine.execSetldo code s
  | .begin ldo gain rate => Sys2Proof.Machine.execBegin ldo gain rate s
  | .calafe tmo => Sys2Proof.Machine.execCalafe tmo s
  | .waitcal tmo => Sys2Proof.Machine.execWaitcal tmo s
  | .calstat => Sys2Proof.Machine.execCalstat s
  | .calzero n => Sys2Proof.Machine.execCalzero n s
  | .avail => Sys2Proof.Machine.execAvail s
  | .getrd => Sys2Proof.Machine.execGetrd s
  | .getavg n => Sys2Proof.Machine.execGetavg n s
  | .getled cl => Sys2Proof.Machine.execGetled cl s
  | .scan => Sys2Proof.Machine.execScan s
  | .rdsr idx => Sys2Proof.Machine.execRdsr idx s
  | .rdstate => Sys2Proof.Machine.execRdstate s
  | .rdzoff => Sys2Proof.Machine.execRdzoff s

end Sys2Proof.Machine
end

