-- ==== Sys2Proof/Machine/Sequencer.lean ====
section
/-! DEFINITION. What a step of the machine is: acceptance of the next command word, the next interaction of the command
in execution, or reset (R6, R22, R24, R69, R185 to R187). -/

namespace Sys2Proof.Machine

/-- No command in execution and no word at the port: time passes and the device does as it likes. -/
def State.idle (s : State) : State := s.environ 0

/-- An illegal word is accepted (R69): no interaction, no register but `BUSY`, and the response
`(IllegalCommand, 0)` is left to deliver. -/
def State.reject (s : State) (cw : Word) : State :=
  (s.accept cw).goto (.respond none (failResponse .illegalCommand))

/-- The word at the head of the port, if any, is accepted (R22, R70); a legal one starts its command. -/
def acceptNext (s : State) : Out :=
  match s.port with
  | [] => .next s.idle
  | cw :: rest =>
    match decode cw with
    | some i => exec i (s.withPort rest)
    | none => .next ((s.withPort rest).reject cw)

/-- The command in execution performs its next interaction (R6). -/
def continueRun (s : State) : Out :=
  match s.run with
  | none => .next s.idle
  | some (.respond none r) => .next (s.deliver r)
  | some r =>
    match r.instr with
    | some i => exec i s
    | none => .next s.idle

/-- A step without reset: a word is accepted only while `BUSY = 0` (R22). -/
def stepBlock (s : State) : Out := if s.busy then continueRun s else acceptNext s

/-- Whether reset is asserted during the coming interaction, and if so whether that interaction's effect outside the
block lands (R186, U13). Only a scripted move asserts reset (log 11). -/
def State.scriptedReset (s : State) : Option Bool :=
  match s.script with
  | m :: _ => m.reset
  | [] => none

/-- The block's registers take their reset values (R34, R185); the device, the LEDs, `NOW`, the parameters and the
words the host presents are not touched (R187). -/
def State.resetBlock (s : State) : State :=
  { State.reset with
    cfg := s.cfg, port := s.port, trace := s.trace, now := s.now, dev := s.dev, led := s.led, script := s.script,
    tick := s.tick }

/-- The state whose device and LEDs a reset leaves behind: those of the interaction in flight, where it lands; else
those of the other agents' move alone (R186, U13). -/
def State.inFlight (s : State) (landed : Bool) : State :=
  if landed && s.busy then
    match stepBlock s with
    | .next t => t
    | _ => s.environ 0
  else s.environ 0

/-- Reset asserted at a step (R185, R186): the command in execution is abandoned with no response. Of a delay in flight
as much has passed as the move says; under the exact profile none of it, since no rule says how much (DESIGN CHOICE,
log 21). An LED channel that a cut-off scan left on stays on (R186, R187) until a later `LedSet` (log 20). -/
def resetStep (landed : Bool) (s : State) : State :=
  { s.environ 0 with dev := (s.inFlight landed).dev, led := (s.inFlight landed).led }.resetBlock.log .reset

/-- One step. -/
def stepOnce (s : State) : Out :=
  match s.scriptedReset with
  | some landed => .next (resetStep landed s)
  | none => stepBlock s

/-- The script with no reset at its first move. -/
def withoutReset : List Move → List Move
  | [] => []
  | m :: ms => { m with reset := none } :: ms

/-- A word at the head of the command port of a block that is not busy and is not being reset, so that the very next
step accepts it (log 12). -/
def State.present (s : State) (cw : Word) : State :=
  { s with port := cw :: s.port, busy := false, run := none, script := withoutReset s.script }

end Sys2Proof.Machine
end

