-- ==== Sys2Proof/Machine/Step.lean ====
section
/-! DEFINITION. The step function and the host's way of placing an instruction. -/

namespace Sys2Proof.Machine

/-- One step of the machine (R6). -/
def step (s : State) : Host.Outcome State Fault Refusal := stepOnce s

/-- `s` with the instruction of `nbits` bits `w` where `step` takes its next one: the command port (log 12). -/
def State.withFetchWord (s : State) (nbits w : Nat) : State := s.present (BitVec.ofNat 32 (w % 2 ^ nbits))

end Sys2Proof.Machine
end

