-- ==== Sys2Proof/Safety.lean ====
section
/-! DEFINITION. The terms claims are stated in: runs of one command, what the coming moves bring, frames, and the
invariants of the machine. -/

namespace Sys2Proof.Machine

/-! ## Runs of one command -/

/-- `n` steps of command `i`. -/
def execN (i : Instr) : Nat → State → Out
  | 0, s => .next s
  | n + 1, s =>
    match exec i s with
    | .next t => execN i n t
    | .fault e => .fault e
    | .refused e => .refused e

/-! ## The coming moves -/

/-- No bus interaction among the next `n` faults. -/
def State.NoFault (s : State) (n : Nat) : Prop := ∀ j, j < n → (s.moveAt j).busFault = none

/-- The device's registers after the next `j` moves, if the block writes none. -/
def State.devAfter (s : State) : Nat → Memory
  | 0 => s.dev
  | j + 1 => Memory.writeAll (s.devAfter j) (s.moveAt j).changes

/-- What register `a` holds at the `j`-th coming interaction, if the block writes none before it. -/
def State.byteAt (s : State) (j : Nat) (a : Byte) : Byte := Memory.read (s.devAfter (j + 1)) a

/-- The bit of a field at the `j`-th coming interaction, if the block writes no register before it. -/
def State.bitAt (s : State) (j : Nat) (f : BitField) : Bool := testBit (s.byteAt j f.reg) f.bit

/-- The sample a block read delivers at the `j`-th coming interaction, if the block writes no register before it. -/
def State.sampleAt (s : State) (j : Nat) : Word :=
  decodeSample s.cfg (s.byteAt j s.cfg.regMap.regAdcoB2) (s.byteAt j (s.cfg.regMap.regAdcoB2 + 1))
    (s.byteAt j (s.cfg.regMap.regAdcoB2 + 2))

/-- `NOW` after the next `j` moves, the `k`-th of which waits at least `least k`. -/
def State.nowAfter (s : State) (least : Nat → Word) : Nat → Word
  | 0 => s.now
  | j + 1 => s.nowAfter least j + timePassed s.cfg.timeProfile (least j) (s.moveAt j).elapse

/-! ## Frames -/

/-- `CAL_STATE` and `FCAUSE` are unchanged. -/
def SameCal (s t : State) : Prop := t.calState = s.calState ∧ t.fcause = s.fcause

/-- `ZOFF` is unchanged. -/
def SameZoff (s t : State) : Prop := t.zoff = s.zoff

/-- `SR[0..7]` and `SRV` are unchanged. -/
def SameResults (s t : State) : Prop := t.sr = s.sr ∧ t.srv = s.srv

/-- The scan's working registers are unchanged. -/
def SameScanWork (s t : State) : Prop :=
  t.ch = s.ch ∧ t.w = s.w ∧ t.ledonValid = s.ledonValid ∧ t.ledonIdx = s.ledonIdx

/-- The polling working registers are unchanged. -/
def SamePollWork (s t : State) : Prop := t.acc = s.acc ∧ t.k = s.k ∧ t.t0 = s.t0 ∧ t.iter = s.iter

/-- The parameters, the words at the port and the LED channels are unchanged. -/
def SameOutside (s t : State) : Prop := t.cfg = s.cfg ∧ t.port = s.port ∧ t.led = s.led

/-- Every register of the block but `BUSY` and the position is unchanged, and so are the parameters, the port and the
LED channels. -/
def SameRegs (s t : State) : Prop :=
  SameCal s t ∧ SameZoff s t ∧ SameResults s t ∧ SameScanWork s t ∧ SamePollWork s t ∧ SameOutside s t

/-- The register the coming interaction of the command in execution writes and the byte it writes, if it is a bus
write (R43): the byte a read-modify-write has made of its read (R91, R92), or the chopper value (R116). -/
def Running.stores (cfg : Config) : Running → Option (Byte × Byte)
  | .respond _ _ => none
  | .getbit _ _ => none
  | .setbit reg _ (.write v) => some (reg, v)
  | .setbit _ _ .read => none
  | .clrbit reg _ (.write v) => some (reg, v)
  | .clrbit _ _ .read => none
  | .setgain _ (.write v) => some (cfg.regMap.fldGain.reg, v)
  | .setgain _ .read => none
  | .setrate _ (.write v) => some (cfg.regMap.fldRate.reg, v)
  | .setrate _ .read => none
  | .setldo _ (.write v) => some (cfg.regMap.fldLdo.reg, v)
  | .setldo _ .read => none
  | .begin _ _ _ (.resetSet (.write v)) => some (cfg.regMap.fReset.reg, v)
  | .begin _ _ _ (.resetClear (.write v)) => some (cfg.regMap.fReset.reg, v)
  | .begin _ _ _ (.pud (.write v)) => some (cfg.regMap.fPud.reg, v)
  | .begin _ _ _ (.pua (.write v)) => some (cfg.regMap.fPua.reg, v)
  | .begin _ _ _ (.ldo (.write v)) => some (cfg.regMap.fldLdo.reg, v)
  | .begin _ _ _ (.gain (.write v)) => some (cfg.regMap.fldGain.reg, v)
  | .begin _ _ _ (.rate (.write v)) => some (cfg.regMap.fldRate.reg, v)
  | .begin _ _ _ .chop => some (cfg.regMap.regChop, cfg.regMap.chopValue)
  | .begin _ _ _ (.pgacap (.write v)) => some (cfg.regMap.fPgacap.reg, v)
  | .begin _ _ _ (.afe (.start (.write v))) => some (cfg.regMap.fCals.reg, v)
  | .begin _ _ _ (.afe (.convert (.write v))) => some (cfg.regMap.fCs.reg, v)
  | .begin _ _ _ _ => none
  | .calafe _ (.start (.write v)) => some (cfg.regMap.fCals.reg, v)
  | .calafe _ (.convert (.write v)) => some (cfg.regMap.fCs.reg, v)
  | .calafe _ _ => none
  | .waitcal _ _ => none
  | .calstat _ => none
  | .calzero _ _ => none
  | .avail => none
  | .getrd _ => none
  | .getavg _ _ => none
  | .getled _ _ => none
  | .scan _ => none

/-- The register this step of the machine writes and the byte it writes, if it is a bus write. -/
def State.stores (s : State) : Option (Byte × Byte) :=
  if s.busy then s.run.bind (Running.stores s.cfg) else none

/-- The device register this step of the machine writes, if any. -/
def State.storesTo (s : State) : Option Byte := s.stores.map Prod.fst

/-- The LED channel this step of the machine switches and whether on, if it is a `LedSet` (R150, R152). -/
def State.switches (s : State) : Option (BitVec 3 × Bool) :=
  if s.busy then
    match s.run with
    | some (.scan .lightOn) => some (channelOf s.ch, true)
    | some (.scan .lightOff) => some (channelOf s.ch, false)
    | some (.scan (.abort _)) => some (s.ledonIdx, false)
    | _ => none
  else none

/-! ## Procedures inside commands -/

/-- The commands that call `WaitCal` (R115, R118 to R120): the timeout in milliseconds, the command's position when
`WaitCal` stands at one of its own, and where the command goes on when it has ended with Success: `WAITCAL` answers, the
other two set the conversion-start bit. -/
inductive Waits (cfg : Config) : Instr → Int → (WaitPos → Running) → Running → Prop where
  | waitcal (tmo : Raw) : Waits cfg (.waitcal tmo) (timeoutMs tmo) (.waitcal tmo) (.respond (some (.waitcal tmo)) ⟨0x00, 1⟩)
  | calafe (tmo : Raw) : Waits cfg (.calafe tmo) (timeoutMs tmo) (fun p => .calafe tmo (.wait p)) (.calafe tmo (.convert .read))
  | begin (ldo gain rate : Byte) :
    Waits cfg (.begin ldo gain rate) (timeoutMs cfg.calTimeoutDefaultMs)
      (fun p => .begin ldo gain rate (.afe (.wait p))) (.begin ldo gain rate (.afe (.convert .read)))

/-- The commands that call `GetReading` (R140, R142, R144, R152), and their position when it stands at one of its own. -/
inductive Reads : Instr → (ReadPos → Running) → Prop where
  | getrd : Reads .getrd .getrd
  | getled (cl : Bool) : Reads (.getled cl) (.getled cl)
  | scan : Reads .scan (fun p => .scan (.reading p))

/-- The commands that call `Average(n)` (R122, R143), and their position when it stands at one of its own. -/
inductive Averages (n : BitVec 16) : Instr → (AvgPos → Running) → Prop where
  | getavg : Averages n (.getavg n) (.getavg n)
  | calzero : Averages n (.calzero n) (.calzero n)

/-- Command `i` has failed with cause `c` (R118, R176): `(code(c), 0)` is left to deliver; `BEGIN` is Faulted with the
code, and for every other command `CAL_STATE` and `FCAUSE` stay. -/
def FailedWith (i : Instr) (c : Cause) (s t : State) : Prop :=
  t.run = some (.respond (some i) ⟨c.code, 0⟩)
    ∧ ((∃ l g r, i = .begin l g r) → t.calState = 6 ∧ t.fcause = c.code)
    ∧ ((∀ l g r, i ≠ .begin l g r) → SameCal s t)

/-! ## Interactions in a row, none of which faults -/

/-- What the pseudocode has the block do at a place: a read-modify-write, a write, a read, a delay, a `Now` or the
response. -/
inductive Act where
  | modify (reg : Byte) (change : Byte → Byte)
  | store (reg v : Byte)
  | look (reg : Byte)
  | wait (k : Word)
  | time
  | reply (r : Response)

/-- What has happened after some interactions: how many, the time, the device's registers, the events newest first. -/
structure Play where
  count : Nat
  now : Word
  dev : Memory
  events : List Event

/-- The device's registers at the next interaction: the device has made its own changes of that move (R54). -/
def Play.devNext (s : State) (p : Play) : Memory := Memory.writeAll p.dev (s.moveAt p.count).changes

/-- One interaction: its event, given the device's registers and the time at it, and the registers it leaves. -/
def Play.interact (s : State) (p : Play) (least : Word) (e : Memory → Word → Event) (after : Memory → Memory) : Play :=
  let now := p.now + timePassed s.cfg.timeProfile least (s.moveAt p.count).elapse
  { count := p.count + 1
    now := now
    dev := after (p.devNext s)
    events := e (p.devNext s) now :: p.events }

/-- One action of the pseudocode; a read answers with what the device holds, a write stores. -/
def Play.act (s : State) (p : Play) : Act → Play
  | .modify reg change =>
    let v := Memory.read (p.devNext s) reg
    (p.interact s 0 (fun _ _ => .rd s.cfg.devAddr reg (some v)) id).interact s 0
      (fun _ _ => .wr s.cfg.devAddr reg (change v) true) (fun d => Memory.write d reg (change v))
  | .store reg v => p.interact s 0 (fun _ _ => .wr s.cfg.devAddr reg v true) (fun d => Memory.write d reg v)
  | .look reg => p.interact s 0 (fun d _ => .rd s.cfg.devAddr reg (some (Memory.read d reg))) id
  | .wait k => p.interact s k (fun _ _ => .delay k) id
  | .time => p.interact s 0 (fun _ now => .now now) id
  | .reply r => p.interact s 0 (fun _ _ => .resp r) id

/-- Actions in a row, from state `s` on. -/
def State.play (s : State) (acts : List Act) : Play := acts.foldl (Play.act s) ⟨0, s.now, s.dev, []⟩

/-- What a read of a field's bit would answer after those actions. -/
def State.sees (s : State) (acts : List Act) (f : BitField) : Bool :=
  testBit (Memory.read ((s.play acts).devNext s) f.reg) f.bit

/-- `SetBit(f)` (R91). -/
def Act.set (f : BitField) : Act := .modify f.reg (withBit f.bit)

/-- `ClearBit(f)` (R91). -/
def Act.clear (f : BitField) : Act := .modify f.reg (withoutBit f.bit)

/-- `WriteField(f, c)` (R92). -/
def Act.field (cfg : Config) (f : Field3) (c : Byte) : Act := .modify f.reg (withField f.lsb (clamp3 cfg c))

/-- `GetBit(f)` (R90). -/
def Act.get (f : BitField) : Act := .look f.reg

/-- From its acceptance at `s`, command `i` does exactly these actions, the last of them its response, and then stands
at `t`: the events, the time and the device are those of the actions. -/
def Performs (i : Instr) (acts : List Act) (s t : State) : Prop :=
  ∃ s1, exec i s = .next s1 ∧ execN i (s.play acts).count s1 = .next t ∧ t.busy = false
    ∧ t.trace = (s.play acts).events ++ .accept (encode i) :: s.trace
    ∧ t.dev = (s.play acts).dev ∧ t.now = (s.play acts).now

/-- The actions of a successful `BEGIN` whose power-up-ready bit reads 1 at the first poll and whose calibration has
ended at the first status poll (R111, R112, R116, R115, R118). -/
def beginActs (cfg : Config) (ldo gain rate : Byte) : List Act :=
  [.set cfg.regMap.fReset, .wait cfg.resetSettleMs, .clear cfg.regMap.fReset, .wait cfg.resetSettleMs]
    ++ [.set cfg.regMap.fPud, .set cfg.regMap.fPua, .get cfg.regMap.fPur]
    ++ [.field cfg cfg.regMap.fldLdo ldo, .field cfg cfg.regMap.fldGain gain, .field cfg cfg.regMap.fldRate rate,
      .store cfg.regMap.regChop cfg.regMap.chopValue, .set cfg.regMap.fPgacap]
    ++ [.set cfg.regMap.fCals, .time, .get cfg.regMap.fCals, .get cfg.regMap.fCalerr, .set cfg.regMap.fCs,
      .reply ⟨0x00, 0⟩]

/-- The actions of `CALAFE` up to its `m+1`-st status poll, each poll before it having found the calibration in
progress: the start bit, the start time, then for each a read, with a positive timeout a `Now`, and a delay (R114,
R115). -/
def afePolls (cfg : Config) (t : Int) (m : Nat) : List Act :=
  [.set cfg.regMap.fCals, .time] ++ (List.replicate m
    (if 0 < t then [.get cfg.regMap.fCals, .time, .wait cfg.calPollMs]
      else [.get cfg.regMap.fCals, .wait cfg.calPollMs])).flatten

/-- The time that has passed, at the time test after the `m+1`-st status poll, since the start of the wait (R114). -/
def State.afeElapsed (s : State) (t : Int) (m : Nat) : Word :=
  elapsedSince (s.play [.set s.cfg.regMap.fCals, .time]).now
    (s.play (afePolls s.cfg t m ++ [.get s.cfg.regMap.fCals, .time])).now

/-! ## Whole courses of commands, from acceptance to response -/

/-- A command that is one read-modify-write of `reg` (R91, R92, R95): on success a read and a write of the changed byte
and the result; a fault of the write after the read; a fault of the read with no write. `byteAt 0` is what the read
answers; after a faulting write the register holds what the device chose (R43). -/
def RmwCourse (i : Instr) (reg : Byte) (change : Byte → Byte) (result : Word) (s : State) : Prop :=
  ((s.moveAt 0).busFault = none → (s.moveAt 1).busFault = none →
    ∃ s1 s2 s3 t, exec i s = .next s1 ∧ exec i s1 = .next s2 ∧ exec i s2 = .next s3 ∧ exec i s3 = .next t
      ∧ t.busy = false ∧ SameRegs s t
      ∧ t.trace = .resp ⟨0x00, result⟩ :: .wr s.cfg.devAddr reg (change (s.byteAt 0 reg)) true
          :: .rd s.cfg.devAddr reg (some (s.byteAt 0 reg)) :: .accept (encode i) :: s.trace
      ∧ t.dev = Memory.writeAll (Memory.write (s.devAfter 2) reg (change (s.byteAt 0 reg))) (s.moveAt 2).changes)
  ∧ (∀ b, (s.moveAt 0).busFault = none → (s.moveAt 1).busFault = some b →
    ∃ s1 s2 s3 t, exec i s = .next s1 ∧ exec i s1 = .next s2 ∧ exec i s2 = .next s3 ∧ exec i s3 = .next t
      ∧ t.busy = false ∧ SameRegs s t
      ∧ t.trace = .resp ⟨0x01, 0⟩ :: .wr s.cfg.devAddr reg (change (s.byteAt 0 reg)) false
          :: .rd s.cfg.devAddr reg (some (s.byteAt 0 reg)) :: .accept (encode i) :: s.trace
      ∧ t.dev = Memory.writeAll (Memory.write (s.devAfter 2) reg b) (s.moveAt 2).changes)
  ∧ (∀ b, (s.moveAt 0).busFault = some b →
    ∃ s1 s2 t, exec i s = .next s1 ∧ exec i s1 = .next s2 ∧ exec i s2 = .next t
      ∧ t.busy = false ∧ SameRegs s t
      ∧ t.trace = .resp ⟨0x01, 0⟩ :: .rd s.cfg.devAddr reg none :: .accept (encode i) :: s.trace
      ∧ t.dev = s.devAfter 2)

/-- A command with no interaction but its response (R6): accepted, then answered with `r`. -/
def AnswerCourse (i : Instr) (r : Response) (s : State) : Prop :=
  ∃ s1 t, exec i s = .next s1 ∧ exec i s1 = .next t
    ∧ s1.busy = true ∧ s1.dev = s.dev ∧ s1.now = s.now
    ∧ t.busy = false ∧ SameRegs s t ∧ t.trace = .resp r :: .accept (encode i) :: s.trace ∧ t.dev = s.devAfter 1

/-- `GetReading`'s wait (R138) over the coming moves: the first `m` polls read 0, the next reads 1, none of these
interactions faults. Poll `j` is interaction `2 j`, the block read interaction `2 m + 1`. -/
def State.ReadyAfter (s : State) (m : Nat) : Prop :=
  s.NoFault (2 * m + 2) ∧ (∀ j, j < m → s.bitAt (2 * j) s.cfg.regMap.fCr = false)
    ∧ s.bitAt (2 * m) s.cfg.regMap.fCr = true

/-- A command that takes one reading after `m` polls that are not ready and answers with `value` of it. -/
def ReadingCourse (i : Instr) (value : Word → Word) (m : Nat) (s : State) : Prop :=
  ∃ s1 t, exec i s = .next s1 ∧ execN i (2 * m + 3) s1 = .next t ∧ t.busy = false ∧ SameRegs s t
    ∧ t.trace.head? = some (.resp ⟨0x00, value (s.sampleAt (2 * m + 1))⟩) ∧ t.dev = s.devAfter (2 * m + 3)

/-- The waits of `WaitCal` by interaction number, its timeout positive (R114): only every third interaction, the pause,
has a least length. -/
def State.waitWaits (s : State) (j : Nat) : Word := if j % 3 = 0 ∧ j ≠ 0 then s.cfg.calPollMs else 0

/-- The waits of `Average` by interaction number when every poll is ready (R139): only every fourth interaction, the
pause, has a least length. -/
def State.averageWaits (s : State) (j : Nat) : Word := if j % 4 = 0 ∧ j ≠ 0 then s.cfg.avgPollMs else 0

/-- `Average(n)` over the coming moves, every poll ready: no bus interaction faults, every poll reads 1, and no time
test before the last sample finds the budget exceeded. Sample `m` is interaction `4 m + 2`. -/
def State.SamplesInTime (s : State) (n : Nat) : Prop :=
  (∀ m, m < n → (s.moveAt (4 * m + 1)).busFault = none ∧ s.bitAt (4 * m + 1) s.cfg.regMap.fCr = true
      ∧ (s.moveAt (4 * m + 2)).busFault = none)
    ∧ ∀ m, m + 1 < n →
      ¬ s.cfg.avgBudgetMs < elapsedSince (s.nowAfter s.averageWaits 1) (s.nowAfter s.averageWaits (4 * m + 4))

/-- The exact sum of the first `m` samples of that course. -/
def State.sampleSum (s : State) : Nat → Int
  | 0 => 0
  | m + 1 => s.sampleSum m + (s.sampleAt (4 * m + 2)).toInt

/-- The events of one channel of a scan, newest first, the poll ready at once (R152). -/
def State.channelEvents (s : State) (c : Nat) : List Event :=
  [ .led (BitVec.ofNat 3 c) false,
    .rdBlock s.cfg.devAddr s.cfg.regMap.regAdcoB2
      (some (s.byteAt (5 * c + 3) s.cfg.regMap.regAdcoB2, s.byteAt (5 * c + 3) (s.cfg.regMap.regAdcoB2 + 1),
        s.byteAt (5 * c + 3) (s.cfg.regMap.regAdcoB2 + 2))),
    .rd s.cfg.devAddr s.cfg.regMap.fCr.reg (some (s.byteAt (5 * c + 2) s.cfg.regMap.fCr.reg)),
    .delay s.cfg.settleMs,
    .led (BitVec.ofNat 3 c) true ]

/-- The events of the first `n` channels of a scan, newest first. -/
def State.scanEvents (s : State) : Nat → List Event
  | 0 => []
  | n + 1 => s.channelEvents n ++ s.scanEvents n

/-- The address of a bus write event. -/
def Event.writeAddress : Event → Option Byte
  | .wr _ a _ _ => some a
  | _ => none

/-- The device address a bus event goes to. -/
def Event.busDevice : Event → Option (BitVec 7)
  | .rd d _ _ => some d
  | .rdBlock d _ _ => some d
  | .wr d _ _ _ => some d
  | _ => none

/-! ## Which command can end with which cause (R172) -/

/-- R172's table: the causes of a command's row; for `CALAFE` and `WAITCAL` a timeout only with `t > 0`. -/
def causesOf : Instr → List Cause
  | .getbit _ _ | .setbit _ _ | .clrbit _ _ => [.busFault]
  | .decode _ => []
  | .setgain _ | .setrate _ | .setldo _ => [.busFault]
  | .begin _ _ _ => [.busFault, .powerUpTimeout, .calibrationTimeout, .calibrationFailure]
  | .calafe tmo | .waitcal tmo =>
    if 0 < timeoutMs tmo then [.busFault, .calibrationTimeout, .calibrationFailure] else [.busFault, .calibrationFailure]
  | .calstat => [.busFault]
  | .calzero _ => [.busFault, .sampleTimeout, .illegalOperand]
  | .avail => [.busFault]
  | .getrd => [.busFault]
  | .getavg _ => [.busFault, .sampleTimeout, .illegalOperand]
  | .getled _ => [.busFault]
  | .scan => [.busFault]
  | .rdsr _ => [.noData]
  | .rdstate | .rdzoff => []

/-! ## Invariants -/

/-- The state of the calibration state machine a position of `BEGIN` belongs to (R110). -/
def BeginPos.phase : BeginPos → BitVec 3
  | .resetSet _ => calUninitialized
  | .resetHold => calUninitialized
  | .resetClear _ => calUninitialized
  | .resetSettle => calUninitialized
  | .pud _ => calReset
  | .pua _ => calReset
  | .purPoll => calReset
  | .purPause => calReset
  | .ldo _ => calPoweredUp
  | .gain _ => calPoweredUp
  | .rate _ => calPoweredUp
  | .chop => calPoweredUp
  | .pgacap _ => calPoweredUp
  | .afe (.start _) => calAnalogConfigured
  | .afe (.wait _) => calCalibrating
  | .afe (.convert _) => calCalibrating

/-- R24: `BUSY` is 1 exactly when a command is in execution. -/
def State.BusyInv (s : State) : Prop := s.busy = s.run.isSome

/-- R20, R21, R110, R155: `CAL_STATE` is one of its seven codes; `FCAUSE` is 0 unless it is Faulted, and then a code
`BEGIN` can end with; while `BEGIN` runs, `CAL_STATE` is that of the sub-step reached and `FCAUSE` is 0; while it does
not, `CAL_STATE` is Uninitialized, Ready or Faulted, none of the states in between. -/
def State.CalInv (s : State) : Prop :=
  s.calState ≤ 6
    ∧ (s.calState ≠ calFaulted → s.fcause = 0x00)
    ∧ (s.calState = calFaulted → s.fcause = 0x01 ∨ s.fcause = 0x02 ∨ s.fcause = 0x03 ∨ s.fcause = 0x04)
    ∧ (∀ l g r p, s.busy = true → s.run = some (.begin l g r p) → s.calState = p.phase ∧ s.fcause = 0x00)
    ∧ ((∀ l g r p, s.busy = true → s.run ≠ some (.begin l g r p)) →
        s.calState = calUninitialized ∨ s.calState = calReady ∨ s.calState = calFaulted)

/-- A Sample: in [-2^23, 2^23 - 1] (R94). -/
def IsSample (x : Word) : Prop := -(2 ^ 23) ≤ x.toInt ∧ x.toInt ≤ 2 ^ 23 - 1

/-- A difference of two Samples: in [-2^24 + 1, 2^24 - 1] (R140). -/
def IsDifference (x : Word) : Prop := -(2 ^ 24) + 1 ≤ x.toInt ∧ x.toInt ≤ 2 ^ 24 - 1

/-- `ACC` holds a sum of `K` Samples, and `K` has not reached the count (R29, R139). -/
def State.SumOf (s : State) (n : BitVec 16) : Prop :=
  s.k < n ∧ -(s.k.toNat * 2 ^ 23 : Int) ≤ s.acc.toInt ∧ s.acc.toInt ≤ s.k.toNat * (2 ^ 23 - 1)

/-- R25, R26, R28, R29: the parameters' sizes fit; `ZOFF` is a Sample, every `SR[i]` a difference of Samples, `CH` at
most 8; while `SCAN` runs `CH` is a channel and the values gathered so far are differences of Samples; while `Average`
polls, the count is an accepted one and `ACC` a sum of `K` Samples. -/
def State.RangeInv (s : State) : Prop :=
  s.cfg.sizesFit = true
    ∧ IsSample s.zoff
    ∧ (∀ i : BitVec 3, IsDifference (resultAt s.sr i))
    ∧ s.ch ≤ 8
    ∧ (∀ p, s.busy = true → s.run = some (.scan p) →
        s.ch < s.cfg.nch ∧ (∀ j : BitVec 3, j < channelOf s.ch → IsDifference (resultAt s.w j))
          ∧ (p = .lightOff → IsDifference (resultAt s.w (channelOf s.ch))))
    ∧ (∀ n p, s.busy = true → s.run = some (.getavg n p) → countFits s.cfg n = true ∧ (p ≠ .stamp → s.SumOf n))
    ∧ (∀ n p, s.busy = true → s.run = some (.calzero n p) → countFits s.cfg n = true ∧ (p ≠ .stamp → s.SumOf n))

/-- R172: a failed `SCAN` reports a bus fault; an illegal word is answered with `IllegalCommand`; a command is answered
with OK or with a cause of its row, the value then 0. -/
def State.CauseInv (s : State) : Prop :=
  s.busy = true →
    (∀ c, s.run = some (.scan (.abort c)) → c = .busFault)
      ∧ (∀ r, s.run = some (.respond none r) → r = failResponse .illegalCommand)
      ∧ ∀ i r, s.run = some (.respond (some i) r) →
          r.status = 0x00 ∨ ∃ c, c ∈ causesOf i ∧ r = failResponse c

/-- R112: while `PowerUp` polls, `ITER` counts fewer polls than are allowed. -/
def State.PollInv (s : State) : Prop :=
  s.cfg.puPollMax ≠ 0 →
    ∀ l g r p, s.busy = true → s.run = some (.begin l g r p) → p = .purPoll ∨ p = .purPause →
      s.iter < s.cfg.puPollMax

/-- The positions of `SCAN` at which its channel is lit (R152). -/
def ScanPos.lit : ScanPos → Bool
  | .lightOn => false
  | .settle => true
  | .reading _ => true
  | .lightOff => true
  | .abort _ => true

/-- The command in execution has a channel lit. -/
def Running.lit : Running → Bool
  | .scan p => p.lit
  | _ => false

/-- R153: a lit channel is the one `LEDON` names, so at most one is lit; `LEDON` is valid exactly at the positions of
`SCAN` between turning its channel on and off, and then names channel `CH`, except in the failure action, where it
names the channel to turn off. -/
def State.LedInv (s : State) : Prop :=
  (∀ i : Fin 8, s.led[i] = true → s.ledonValid = true ∧ s.ledonIdx.toNat = i)
    ∧ s.ledonValid = (s.busy && (s.run.map Running.lit).getD false)
    ∧ ∀ p, s.busy = true → s.run = some (.scan p) → p = .settle ∨ (∃ q, p = .reading q) ∨ p = .lightOff →
        s.ledonIdx = channelOf s.ch

/-- Whether a word is in execution after an event, given whether one was before it; `none` where the event may not
happen then (R22, R69, R72): a word is accepted only when none is in execution, every interaction and response belongs
to an accepted word, a response ends it, and reset ends it without one. -/
def orderAfter (e : Event) (executing : Bool) : Option Bool :=
  match e with
  | .accept _ => if executing then none else some true
  | .resp _ => if executing then some false else none
  | .reset => some false
  | .rd _ _ _ | .rdBlock _ _ _ | .wr _ _ _ _ | .delay _ | .now _ | .led _ _ => if executing then some true else none

/-- Whether a word is in execution after all the events, newest first; `none` where their order is broken. -/
def portOrder : List Event → Option Bool
  | [] => some false
  | e :: es => (portOrder es).bind (orderAfter e)

/-- The events so far are in order, and `BUSY` says whether a word is in execution. -/
def State.OrderInv (s : State) : Prop := portOrder s.trace = some s.busy

end Sys2Proof.Machine
end

