-- ==== Sys2Proof/Certificates/Slice0/Obligations.lean ====
section
/-! DEFINITION. The statements for the provers. Each docstring names the rules of spec/ it comes from. -/

open Sys2Proof Sys2Proof.Machine

/-! ## Encoding -/

/-- R65 to R70: decoding the word of any command gives that command back, with every operand. -/
def Obligations.DecodeOfEncodeGivesTheCommand : Prop := ∀ i : Instr, decode (encode i) = some i

/-- R65 to R70: a word that decodes to a command is that command's only word. -/
def Obligations.EncodeOfDecodeGivesTheWord : Prop := ∀ (cw : Word) (i : Instr), decode cw = some i → encode i = cw

/-- R69, R70: the decoding algorithm accepts exactly the words that match a row of R68's table, and no word matches
two rows. -/
def Obligations.LegalExactlyWhenOneTableRowMatches : Prop :=
  ∀ cw : Word,
    ((decode cw).isSome = true ↔ ∃ r, r ∈ opcodeTable ∧ cw &&& r.format.mask = r.pattern)
      ∧ ∀ r r', r ∈ opcodeTable → r' ∈ opcodeTable → cw &&& r.format.mask = r.pattern →
          cw &&& r'.format.mask = r'.pattern → r.opc = r'.opc

/-- R77: the worked encodings, and the illegal words beside them. -/
def Obligations.WorkedEncodingsDecode : Prop :=
  (assemble Config.default (.getbit (.name .cr))).map encode = some 0x01000005
    ∧ (assemble Config.default (.getbit (.pair 0x00 5))).map encode = some 0x01000005
    ∧ (assemble Config.default (.setbit (.pair 0x1C 7))).map encode = some 0x02001C07
    ∧ (assemble Config.default (.decode 0x800000)).map encode = some 0x04800000
    ∧ (assemble Config.default (.setgain 200)).map encode = some 0x050000C8
    ∧ (assemble Config.default (.begin 4 7 3)).map encode = some 0x10040703
    ∧ (assemble Config.default (.calafe none)).map encode = some 0x120003E8
    ∧ (assemble Config.default (.calafe (some 1000))).map encode = some 0x120003E8
    ∧ (assemble Config.default (.waitcal (some 0))).map encode = some 0x13000000
    ∧ (assemble Config.default (.waitcal (some (-1)))).map encode = some 0x13FFFFFF
    ∧ (assemble Config.default (.calzero 8)).map encode = some 0x15000008
    ∧ (assemble Config.default (.getavg 65535)).map encode = some 0x2200FFFF
    ∧ (assemble Config.default (.getled false)).map encode = some 0x23000000
    ∧ (assemble Config.default (.getled true)).map encode = some 0x23000001
    ∧ (assemble Config.default .scan).map encode = some 0x30000000
    ∧ (assemble Config.default (.rdsr 7)).map encode = some 0x31000007
    ∧ decode 0x01000005 = some (.getbit 0x00 5)
    ∧ decode 0x02001C07 = some (.setbit 0x1C 7)
    ∧ decode 0x04800000 = some (.decode 0x800000)
    ∧ decode 0x050000C8 = some (.setgain 200)
    ∧ decode 0x10040703 = some (.begin 4 7 3)
    ∧ decode 0x120003E8 = some (.calafe 1000)
    ∧ decode 0x13000000 = some (.waitcal 0)
    ∧ decode 0x13FFFFFF = some (.waitcal 0xFFFFFF)
    ∧ decode 0x15000008 = some (.calzero 8)
    ∧ decode 0x2200FFFF = some (.getavg 65535)
    ∧ decode 0x23000000 = some (.getled false)
    ∧ decode 0x23000001 = some (.getled true)
    ∧ decode 0x30000000 = some .scan
    ∧ decode 0x31000007 = some (.rdsr 7)
    ∧ decode 0x00000000 = none ∧ decode 0x11000000 = none ∧ decode 0x01010005 = none ∧ decode 0x30000001 = none
    ∧ decode 0x23000002 = none ∧ decode 0x31000008 = none

/-- R75, R76: the assembler accepts a line exactly when every operand fits its field, clamps nothing, and gives back
every command written out; a field name stands for its register and bit, and a missing timeout for the default. -/
def Obligations.AssemblerRefusesWhatDoesNotFit : Prop :=
  ∀ cfg : Config,
    (∀ a : Asm, (assemble cfg a).isSome = a.wf)
      ∧ (∀ i : Instr, i.WellFormed ∧ assemble cfg i.source = some i)
      ∧ (∀ f : FieldName,
          assemble cfg (.getbit (.name f)) = some (.getbit (f.field cfg.regMap).reg (f.field cfg.regMap).bit)
            ∧ assemble cfg (.setbit (.name f)) = some (.setbit (f.field cfg.regMap).reg (f.field cfg.regMap).bit)
            ∧ assemble cfg (.clrbit (.name f)) = some (.clrbit (f.field cfg.regMap).reg (f.field cfg.regMap).bit))
      ∧ assemble cfg (.calafe none) = some (.calafe cfg.calTimeoutDefaultMs)
      ∧ assemble cfg (.waitcal none) = some (.waitcal cfg.calTimeoutDefaultMs)

/-! ## Steps, the port, reset -/

/-- R22, R24, R70: a step of a block that is not busy starts the command the word at the port decodes to, the word
leaving the port; a step of a busy block is a step of the command in execution. -/
def Obligations.StepRunsTheDecodedCommand : Prop :=
  ∀ (s : State) (i : Instr), s.scriptedReset = none →
    (∀ cw rest, s.busy = false → s.port = cw :: rest → decode cw = some i → step s = exec i (s.withPort rest))
      ∧ ∀ r, s.busy = true → s.run = some r → r.instr = some i → step s = exec i s

/-- R165, R176: no step ends the machine, and no command is refused. -/
def Obligations.EveryStepAndCommandGoesOn : Prop :=
  (∀ s : State, ∃ t, step s = .next t) ∧ ∀ (i : Instr) (s : State), ∃ t, exec i s = .next t

/-- R22: while `BUSY` is 1 no word leaves the port, and a command other than the one in execution has no effect. -/
def Obligations.BusyBlockAcceptsNoWord : Prop :=
  ∀ s t : State, s.busy = true → step s = .next t →
    t.port = s.port
      ∧ (∀ cw es, s.scriptedReset = none → t.trace ≠ .accept cw :: es ++ s.trace)
      ∧ ∀ i, (∀ r, s.run = some r → r.instr ≠ some i) → exec i s = .next s

/-- R69, R171: an illegal word is accepted, touches no register but `BUSY` and no device register, and is answered with
`(IllegalCommand, 0)`. -/
def Obligations.IllegalWordHasNoSideEffect : Prop :=
  ∀ (s : State) (cw : Word) (rest : List Word),
    s.busy = false → s.scriptedReset = none → s.port = cw :: rest → decode cw = none →
      ∃ s1 t, step s = .next s1 ∧ step s1 = .next t
        ∧ s1.busy = true ∧ SameRegs (s.withPort rest) s1 ∧ s1.dev = s.dev ∧ s1.now = s.now
        ∧ t.busy = false ∧ SameRegs (s.withPort rest) t ∧ t.dev = s.devAfter 1
        ∧ t.trace = .resp ⟨0x0F, 0⟩ :: .accept cw :: s.trace

/-- R34, R185, R187: after reset every register holds its reset value and no command is in execution; the device, the
LEDs (when no interaction in flight lands), `NOW`, the parameters and the port are not reset, and reset is no
interaction. The same values stand in `State.reset`. `NOW` is what the move makes of it: any elapse in the normative
profile; that it does not advance in the exact profile, a delay in flight or not, is the model's choice (log 21). -/
def Obligations.ResetValuesAndWhatResetLeaves : Prop :=
  (State.reset.calState = 0 ∧ State.reset.fcause = 0x00 ∧ State.reset.busy = false ∧ State.reset.zoff = 0
      ∧ (∀ i, resultAt State.reset.sr i = 0) ∧ State.reset.srv = false ∧ State.reset.ledonValid = false)
    ∧ ∀ (s : State) (landed : Bool), s.scriptedReset = some landed →
        ∃ t, step s = .next t
          ∧ t.calState = 0 ∧ t.fcause = 0x00 ∧ t.busy = false ∧ t.zoff = 0 ∧ (∀ i, resultAt t.sr i = 0)
          ∧ t.srv = false ∧ t.ledonValid = false ∧ t.run = none
          ∧ t.now = (s.environ 0).now ∧ t.cfg = s.cfg ∧ t.port = s.port ∧ t.trace = .reset :: s.trace
          ∧ (landed = false ∨ s.busy = false → t.dev = (s.environ 0).dev ∧ t.led = s.led)

/-- R186, U13: of the interaction in flight when reset is asserted, a bus write or an LED event of any command may or
may not have taken effect, and nothing else outside the block has, but for what the device does itself: a write that
lands stores its byte, a `LedSet` that lands switches its channel, and of every other interaction, read, delay, `Now`
or response, nothing is left. The `landed` flag of a scripted move is the model's form of U13 (log 11). -/
def Obligations.ResetMayCutAnInteractionShort : Prop :=
  ∀ (s : State) (landed : Bool), s.scriptedReset = some landed → s.busy = true →
    ∃ t, step s = .next t
      ∧ t.dev = (match s.stores with
          | some (a, v) => if landed then Memory.write (s.devAfter 1) a (s.writtenByte v) else s.devAfter 1
          | none => s.devAfter 1)
      ∧ t.led = (match s.switches with
          | some (c, on) => if landed then setChannel s.led c on else s.led
          | none => s.led)

/-! ## Register driver -/

/-- R97: `GETBIT`, opcode 0x01, reads the register once and answers with the bit; a faulting read is answered with
`(BusFault, 0)`. -/
def Obligations.GetbitReadsOneBit : Prop :=
  ∀ (s : State) (reg : Byte) (bit : BitVec 3), s.busy = false →
    encode (.getbit reg bit) = 0x01#8 ++ 0#8 ++ reg ++ 0#5 ++ bit
    ∧ ∃ s1 s2 t, exec (.getbit reg bit) s = .next s1 ∧ exec (.getbit reg bit) s1 = .next s2
      ∧ exec (.getbit reg bit) s2 = .next t ∧ t.busy = false ∧ SameRegs s t ∧ t.dev = s.devAfter 2
      ∧ ((s.moveAt 0).busFault = none →
          t.trace = .resp ⟨0x00, if s.bitAt 0 ⟨reg, bit⟩ then 1 else 0⟩
            :: .rd s.cfg.devAddr reg (some (s.byteAt 0 reg)) :: .accept (encode (.getbit reg bit)) :: s.trace)
      ∧ ((s.moveAt 0).busFault.isSome = true →
          t.trace = .resp ⟨0x01, 0⟩ :: .rd s.cfg.devAddr reg none :: .accept (encode (.getbit reg bit)) :: s.trace)

/-- R98: `SETBIT`, opcode 0x02, reads the register and writes it with the bit set, whatever the bit was. -/
def Obligations.SetbitWritesTheByteWithTheBitSet : Prop :=
  ∀ (s : State) (reg : Byte) (bit : BitVec 3), s.busy = false →
    encode (.setbit reg bit) = 0x02#8 ++ 0#8 ++ reg ++ 0#5 ++ bit
      ∧ RmwCourse (.setbit reg bit) reg (fun v => v ||| (1#8 <<< bit.toNat)) 0 s

/-- R99: `CLRBIT`, opcode 0x03, reads the register and writes it with the bit cleared, whatever the bit was. -/
def Obligations.ClrbitWritesTheByteWithTheBitCleared : Prop :=
  ∀ (s : State) (reg : Byte) (bit : BitVec 3), s.busy = false →
    encode (.clrbit reg bit) = 0x03#8 ++ 0#8 ++ reg ++ 0#5 ++ bit
      ∧ RmwCourse (.clrbit reg bit) reg (fun v => v &&& ~~~(1#8 <<< bit.toNat)) 0 s

/-- R101, R102, R103: `SETGAIN`, `SETRATE` and `SETLDO`, opcodes 0x05 to 0x07, write the clamped code into their field by a read-modify-write
and answer with the clamped code; no code is a failure. -/
def Obligations.FieldCommandsWriteTheClampedCode : Prop :=
  ∀ (s : State) (code : Byte), s.busy = false →
    encode (.setgain code) = 0x05#8 ++ 0#16 ++ code ∧ encode (.setrate code) = 0x06#8 ++ 0#16 ++ code
      ∧ encode (.setldo code) = 0x07#8 ++ 0#16 ++ code
      ∧ RmwCourse (.setgain code) s.cfg.regMap.fldGain.reg
        (withField s.cfg.regMap.fldGain.lsb (clamp3 s.cfg code)) ((clamp3 s.cfg code).zeroExtend 32) s
      ∧ RmwCourse (.setrate code) s.cfg.regMap.fldRate.reg
          (withField s.cfg.regMap.fldRate.lsb (clamp3 s.cfg code)) ((clamp3 s.cfg code).zeroExtend 32) s
      ∧ RmwCourse (.setldo code) s.cfg.regMap.fldLdo.reg
          (withField s.cfg.regMap.fldLdo.lsb (clamp3 s.cfg code)) ((clamp3 s.cfg code).zeroExtend 32) s

/-- R93: the clamp saturates at the largest code of a field, 7 by default; it never truncates. -/
def Obligations.ClampSaturatesAtSeven : Prop :=
  ∀ (cfg : Config) (c : Byte), cfg.fieldMax = 7 →
    clamp3 cfg c = (if c.toNat ≤ 7 then c else 7) ∧ (clamp3 cfg c).toNat = min c.toNat 7

/-- R91, R92: a bit command changes the named bit only; a field write of a 3-bit code puts it into bits `lsb+2 : lsb`
and keeps the other five. -/
def Obligations.BitAndFieldMasksTouchOnlyTheirBits : Prop :=
  (∀ (v : Byte) (bit : BitVec 3) (j : Nat), j < 8 →
      (withBit bit v).getLsbD j = (decide (j = bit.toNat) || v.getLsbD j)
        ∧ (withoutBit bit v).getLsbD j = (!decide (j = bit.toNat) && v.getLsbD j))
    ∧ ∀ (v code : Byte) (lsb : BitVec 3) (j : Nat), j < 8 → lsb.toNat ≤ 5 → code.toNat ≤ 7 →
        (withField lsb code v).getLsbD j
          = if lsb.toNat ≤ j ∧ j ≤ lsb.toNat + 2 then code.getLsbD (j - lsb.toNat) else v.getLsbD j

/-- R94, with the parameters' values R8 states: the three bytes, big-endian, sign-extended from 24 to 32 bits; the
source's shift form gives the same; the value is `u` below 2^23 and `u - 2^24` from there on, a Sample. -/
def Obligations.DecodeSampleSignExtends : Prop :=
  ∀ (cfg : Config) (y0 y1 y2 : Byte), cfg.sampleBits = 24 → 32 ≤ cfg.xlen →
    let u : Raw := y0 ++ y1 ++ y2
    decodeSample cfg y0 y1 y2 = u.signExtend 32
      ∧ decodeSample cfg y0 y1 y2 = ((u.zeroExtend 32) <<< 8).sshiftRight 8
      ∧ u.toNat = y0.toNat * 2 ^ 16 + y1.toNat * 2 ^ 8 + y2.toNat
      ∧ (decodeSample cfg y0 y1 y2).toInt = (if u.toNat < 2 ^ 23 then (u.toNat : Int) else u.toNat - 2 ^ 24)
      ∧ IsSample (decodeSample cfg y0 y1 y2)

/-- R100: `DECODE`, opcode 0x04, answers with its operand sign-extended, with no interaction but the response: with the
parameters' values R8 states, from 24 to 32 bits; with any others, from `SAMPLE_BITS` to a stored word, which is the
model's reading (log 14). -/
def Obligations.DecodeAnswersTheSignExtendedOperand : Prop :=
  ∀ (s : State) (raw : Raw), s.busy = false →
    encode (.decode raw) = 0x04#8 ++ raw
      ∧ AnswerCourse (.decode raw) ⟨0x00, wordOf s.cfg (sampleValue s.cfg raw)⟩ s
      ∧ (s.cfg.sampleBits = 24 → 32 ≤ s.cfg.xlen → AnswerCourse (.decode raw) ⟨0x00, raw.signExtend 32⟩ s)

/-! ## Calibration -/

/-- R118 (the shortest successful run), R111, R112, R115, R116: with no bus fault, a power-up-ready bit that reads 1 at
the first poll, and calibration bits that read 0 at the first status poll, `BEGIN` does exactly the actions of its
sub-steps, each with the byte the spec gives it (the bit set or cleared in the byte just read, the clamped operand in
its field, the chopper value), eleven writes among 24 bus interactions; it ends Ready and answers OK. -/
def Obligations.BeginShortestRunEndsReady : Prop :=
  ∀ (s : State) (ldo gain rate : Byte), s.busy = false → s.NoFault 27 →
    let acts := beginActs s.cfg ldo gain rate
    s.sees (acts.take 6) s.cfg.regMap.fPur = true →
    s.sees (acts.take 14) s.cfg.regMap.fCals = false →
    s.sees (acts.take 15) s.cfg.regMap.fCalerr = false →
      (∃ s1, exec (.begin ldo gain rate) s = .next s1 ∧ s1.calState = 0 ∧ s1.fcause = 0x00)
        ∧ ∃ t, Performs (.begin ldo gain rate) acts s t ∧ t.calState = 5 ∧ t.fcause = 0x00
          ∧ SameZoff s t ∧ SameResults s t ∧ SameScanWork s t ∧ SameOutside s t ∧ t.acc = s.acc ∧ t.k = s.k ∧ t.iter = 1
          ∧ (s.play acts).count = 28 ∧ ((s.play acts).events.filterMap Event.busDevice).length = 24
          ∧ (s.play acts).events.reverse.filterMap Event.writeAddress =
            [s.cfg.regMap.fReset.reg, s.cfg.regMap.fReset.reg, s.cfg.regMap.fPud.reg, s.cfg.regMap.fPua.reg,
              s.cfg.regMap.fldLdo.reg, s.cfg.regMap.fldGain.reg, s.cfg.regMap.fldRate.reg, s.cfg.regMap.regChop,
              s.cfg.regMap.fPgacap.reg, s.cfg.regMap.fCals.reg, s.cfg.regMap.fCs.reg]

/-- R118, R176, R177: a failure of `BEGIN` at any interaction makes `CAL_STATE` Faulted and `FCAUSE` the code it is
answered with; its success makes `CAL_STATE` Ready; a faulting bus interaction fails it with `BusFault`, and nothing
already written to the device is undone. -/
def Obligations.BeginFailureIsRecorded : Prop :=
  ∀ (s t : State) (ldo gain rate : Byte) (p : BeginPos),
    s.busy = true → s.run = some (.begin ldo gain rate p) → exec (.begin ldo gain rate) s = .next t →
      (∀ j r, t.run = some (.respond j r) →
        j = some (.begin ldo gain rate)
          ∧ (r = ⟨0x00, 0⟩ ∧ t.calState = 5 ∧ t.fcause = s.fcause
              ∨ (∃ c, c ∈ causesOf (.begin ldo gain rate) ∧ r = ⟨c.code, 0⟩ ∧ t.calState = 6 ∧ t.fcause = c.code)))
        ∧ (∀ e es, (s.moveAt 0).busFault.isSome = true → t.trace = e :: es → e.busDevice.isSome = true →
            t.run = some (.respond (some (.begin ldo gain rate)) ⟨0x01, 0⟩))
        ∧ (s.storesTo = none → t.dev = s.devAfter 1)

/-- R112, R167, R175 e: each power-up poll counts; a poll that reads 1 ends the wait, even the last; a poll that reads 0
and is the last allowed ends `BEGIN` with `PowerUpTimeout`; any other is followed by a delay and the next poll. -/
def Obligations.PowerUpPollsAreCounted : Prop :=
  ∀ (s : State) (ldo gain rate : Byte), s.busy = true → s.run = some (.begin ldo gain rate .purPoll) →
    (s.moveAt 0).busFault = none →
      ∃ t, exec (.begin ldo gain rate) s = .next t ∧ t.iter = s.iter + 1
        ∧ (s.bitAt 0 s.cfg.regMap.fPur = true →
            t.run = some (.begin ldo gain rate (.ldo .read)) ∧ t.calState = 2 ∧ t.fcause = s.fcause)
        ∧ (s.bitAt 0 s.cfg.regMap.fPur = false → s.iter + 1 = s.cfg.puPollMax →
            t.run = some (.respond (some (.begin ldo gain rate)) ⟨0x02, 0⟩) ∧ t.calState = 6 ∧ t.fcause = 0x02)
        ∧ (s.bitAt 0 s.cfg.regMap.fPur = false → s.iter + 1 ≠ s.cfg.puPollMax →
            t.run = some (.begin ldo gain rate .purPause) ∧ t.calState = s.calState
              ∧ ∃ u, exec (.begin ldo gain rate) t = .next u ∧ u.run = some (.begin ldo gain rate .purPoll)
                ∧ u.trace = .delay s.cfg.puPollMs :: t.trace ∧ u.iter = t.iter)

/-- R20, R21, R110: no command but `BEGIN` changes `CAL_STATE` or `FCAUSE`. -/
def Obligations.OnlyBeginMovesTheCalibrationState : Prop :=
  ∀ (i : Instr) (s t : State), (∀ l g r, i ≠ .begin l g r) → exec i s = .next t → SameCal s t

/-- R113, R121: `CALSTAT`, opcode 0x14, reads the start bit and answers InProgress when it is set; otherwise reads the error bit, by a
second bus read, and answers Failure or Success; a status of Failure is a result. -/
def Obligations.CalstatAnswersTheStatus : Prop :=
  ∀ s : State, s.busy = false →
    let cals := s.cfg.regMap.fCals
    let calerr := s.cfg.regMap.fCalerr
    encode .calstat = 0x14000000
    ∧ ((s.moveAt 0).busFault = none → s.bitAt 0 cals = true →
      ∃ s1 t, exec .calstat s = .next s1 ∧ execN .calstat 2 s1 = .next t ∧ t.busy = false ∧ SameRegs s t
        ∧ t.dev = s.devAfter 2
        ∧ t.trace = .resp ⟨0x00, 0⟩ :: .rd s.cfg.devAddr cals.reg (some (s.byteAt 0 cals.reg))
            :: .accept (encode .calstat) :: s.trace)
    ∧ ((s.moveAt 0).busFault = none → s.bitAt 0 cals = false → (s.moveAt 1).busFault = none →
      ∃ s1 t, exec .calstat s = .next s1 ∧ execN .calstat 3 s1 = .next t ∧ t.busy = false ∧ SameRegs s t
        ∧ t.dev = s.devAfter 3
        ∧ t.trace = .resp ⟨0x00, if s.bitAt 1 calerr then 2 else 1⟩
            :: .rd s.cfg.devAddr calerr.reg (some (s.byteAt 1 calerr.reg))
            :: .rd s.cfg.devAddr cals.reg (some (s.byteAt 0 cals.reg)) :: .accept (encode .calstat) :: s.trace)
    ∧ ((s.moveAt 0).busFault.isSome = true →
      ∃ s1 t, exec .calstat s = .next s1 ∧ execN .calstat 2 s1 = .next t ∧ t.busy = false ∧ SameRegs s t
        ∧ t.trace = .resp ⟨0x01, 0⟩ :: .rd s.cfg.devAddr cals.reg none :: .accept (encode .calstat) :: s.trace)
    ∧ ((s.moveAt 0).busFault = none → s.bitAt 0 cals = false → (s.moveAt 1).busFault.isSome = true →
      ∃ s1 t, exec .calstat s = .next s1 ∧ execN .calstat 3 s1 = .next t ∧ t.busy = false ∧ SameRegs s t
        ∧ t.trace = .resp ⟨0x01, 0⟩ :: .rd s.cfg.devAddr calerr.reg none
            :: .rd s.cfg.devAddr cals.reg (some (s.byteAt 0 cals.reg)) :: .accept (encode .calstat) :: s.trace)

/-- R114, R120: `WAITCAL` polls the start bit as long as it reads 1, any number `m` of polls, then ends by the error
bit. With a timeout of 0 or below it never looks at the clock after its start (two interactions a poll) and so never
times out; with a positive one it does so after each such poll (three interactions), and goes on while no more than the
timeout has passed. -/
def Obligations.WaitcalAnswersWhenTheCalibrationEnds : Prop :=
  ∀ (s : State) (tmo : Raw) (m : Nat), s.busy = false →
    let c := if 0 < timeoutMs tmo then 3 else 2
    s.NoFault (c * m + 3) →
    (∀ j, j < m → s.bitAt (c * j + 1) s.cfg.regMap.fCals = true) →
    (0 < timeoutMs tmo → ∀ j, j < m →
      (elapsedSince (s.nowAfter s.waitWaits 1) (s.nowAfter s.waitWaits (3 * j + 3))).toNat ≤ timeoutMs tmo) →
    s.bitAt (c * m + 1) s.cfg.regMap.fCals = false →
      ∃ s1 t, exec (.waitcal tmo) s = .next s1 ∧ execN (.waitcal tmo) (c * m + 4) s1 = .next t ∧ t.busy = false
        ∧ SameCal s t ∧ SameZoff s t ∧ SameResults s t ∧ SameScanWork s t ∧ SameOutside s t
        ∧ t.acc = s.acc ∧ t.k = s.k ∧ t.iter = s.iter ∧ t.dev = s.devAfter (c * m + 4)
        ∧ t.trace.head? = some (.resp (if s.bitAt (c * m + 2) s.cfg.regMap.fCalerr then ⟨0x04, 0⟩ else ⟨0x00, 1⟩))

/-- R114, R115, R118, R120, R168, R169, R175 c: `WaitCal` inside `WAITCAL`, `CALAFE` and `BEGIN`. It takes the start
time once; a poll that finds the start bit clear goes to the error bit without looking at the time, and the error bit
ends it with Success or `CalibrationFailure`; a poll that finds the calibration in progress goes to the time test only
with a positive timeout. The test is strict: more than `t` milliseconds since the start is `CalibrationTimeout`,
otherwise a delay and the next poll. A failure inside `BEGIN` makes it Faulted. -/
def Obligations.WaitcalTimeTestIsStrictAndAfterTheStatus : Prop :=
  ∀ (s : State) (i : Instr) (t : Int) (pos : WaitPos → Running) (success : Running),
    Waits s.cfg i t pos success → s.busy = true →
    (s.run = some (pos .stamp) →
      ∃ u, exec i s = .next u ∧ u.trace = .now (s.environ 0).now :: s.trace ∧ u.t0 = (s.environ 0).now
        ∧ u.run = some (pos (.stat .startBit)))
      ∧ (s.run = some (pos (.stat .startBit)) → (s.moveAt 0).busFault = none →
          ∃ u, exec i s = .next u
            ∧ u.run = some (if s.bitAt 0 s.cfg.regMap.fCals then (if 0 < t then pos .clock else pos .pause)
                else pos (.stat .errorBit)))
      ∧ (s.run = some (pos (.stat .errorBit)) → (s.moveAt 0).busFault = none →
          ∃ u, exec i s = .next u
            ∧ (s.bitAt 0 s.cfg.regMap.fCalerr = false → u.run = some success)
            ∧ (s.bitAt 0 s.cfg.regMap.fCalerr = true → FailedWith i .calibrationFailure s u))
      ∧ (s.run = some (pos .clock) → 0 < t →
          ∃ u, exec i s = .next u ∧ u.trace = .now (s.environ 0).now :: s.trace
            ∧ (t < ((s.environ 0).now - s.t0).toNat → FailedWith i .calibrationTimeout s u)
            ∧ (((s.environ 0).now - s.t0).toNat ≤ t → u.run = some (pos .pause)))
      ∧ (s.run = some (pos .pause) →
          ∃ u, exec i s = .next u ∧ u.trace = .delay s.cfg.calPollMs :: s.trace
            ∧ u.run = some (pos (.stat .startBit)))

/-- R114, R115, R119, R168, R169: `CALAFE` sets the calibration-start bit and polls, any number `m` of polls, while the
start bit reads 1 and, with a positive timeout, no more than the timeout has passed; then it sets the conversion-start
bit only if the error bit reads 0. With the error bit 1, or the timeout passed at a poll still in progress, it answers
with the failure and writes nothing more. `CAL_STATE` and `FCAUSE` stay. -/
def Obligations.CalafeSetsBothBitsOnSuccess : Prop :=
  ∀ (s : State) (tmo : Raw) (m : Nat), s.busy = false →
    let t := timeoutMs tmo
    let cals := s.cfg.regMap.fCals
    let calerr := s.cfg.regMap.fCalerr
    let polls := afePolls s.cfg t
    let same := fun u => SameCal s u ∧ SameZoff s u ∧ SameResults s u ∧ SameScanWork s u ∧ SameOutside s u
      ∧ u.acc = s.acc ∧ u.k = s.k ∧ u.iter = s.iter
    (∀ j, j < m → s.sees (polls j) cals = true) →
    (0 < t → ∀ j, j < m → (s.afeElapsed t j).toNat ≤ t) →
      (s.NoFault ((s.play (polls m)).count + 4) → s.sees (polls m) cals = false →
          s.sees (polls m ++ [.get cals]) calerr = false →
          ∃ u, Performs (.calafe tmo)
              (polls m ++ [.get cals, .get calerr, .set s.cfg.regMap.fCs, .reply ⟨0x00, 0⟩]) s u ∧ same u)
        ∧ (s.NoFault ((s.play (polls m)).count + 2) → s.sees (polls m) cals = false →
          s.sees (polls m ++ [.get cals]) calerr = true →
          ∃ u, Performs (.calafe tmo) (polls m ++ [.get cals, .get calerr, .reply ⟨0x04, 0⟩]) s u ∧ same u)
        ∧ (s.NoFault ((s.play (polls m)).count + 1) → 0 < t → s.sees (polls m) cals = true →
          t < (s.afeElapsed t m).toNat →
          ∃ u, Performs (.calafe tmo) (polls m ++ [.get cals, .time, .reply ⟨0x03, 0⟩]) s u ∧ same u)

/-- R122, R139: with every poll ready and the budget kept, `CALZERO n` takes exactly `n` samples, stores their sum
divided by `n`, rounded toward zero, in `ZOFF`, and answers with it. -/
def Obligations.CalzeroStoresTheTruncatedMean : Prop :=
  ∀ (s : State) (n : BitVec 16), s.busy = false → countFits s.cfg n = true → s.SamplesInTime n.toNat →
    ∃ s1 t, exec (.calzero n) s = .next s1 ∧ execN (.calzero n) (4 * n.toNat) s1 = .next t ∧ t.busy = false
      ∧ t.zoff = wordOf s.cfg ((s.sampleSum n.toNat).tdiv n.toNat)
      ∧ t.trace.head? = some (.resp ⟨0x00, t.zoff⟩) ∧ t.dev = s.devAfter (4 * n.toNat)
      ∧ SameCal s t ∧ SameResults s t ∧ SameScanWork s t ∧ SameOutside s t ∧ t.iter = s.iter

/-- R25, R122: `ZOFF` changes only in the step in which `CALZERO` has its last sample, and then to the value it
answers with. -/
def Obligations.OnlyCalzeroWritesTheZeroOffset : Prop :=
  ∀ (i : Instr) (s t : State), exec i s = .next t →
    t.zoff = s.zoff
      ∨ ∃ n, i = .calzero n ∧ s.run = some (.calzero n .sample) ∧ s.k + 1 = n
          ∧ t.run = some (.respond (some (.calzero n)) ⟨0x00, t.zoff⟩)

/-! ## Sampling -/

/-- R135, R141: `AVAIL`, opcode 0x20, reads the cycle-ready bit once and answers with it. -/
def Obligations.AvailAnswersTheCycleReadyBit : Prop :=
  ∀ s : State, s.busy = false →
    encode .avail = 0x20000000 ∧ ∃ s1 s2 t, exec .avail s = .next s1 ∧ exec .avail s1 = .next s2 ∧ exec .avail s2 = .next t ∧ t.busy = false
      ∧ SameRegs s t ∧ t.dev = s.devAfter 2
      ∧ ((s.moveAt 0).busFault = none →
          t.trace = .resp ⟨0x00, if s.bitAt 0 s.cfg.regMap.fCr then 1 else 0⟩
            :: .rd s.cfg.devAddr s.cfg.regMap.fCr.reg (some (s.byteAt 0 s.cfg.regMap.fCr.reg))
            :: .accept (encode .avail) :: s.trace)
      ∧ ((s.moveAt 0).busFault.isSome = true →
          t.trace = .resp ⟨0x01, 0⟩ :: .rd s.cfg.devAddr s.cfg.regMap.fCr.reg none
            :: .accept (encode .avail) :: s.trace)

/-- R137, R138, R142: `GETRD` polls until the cycle-ready bit reads 1, any number `m` of polls, then answers with the
sign-extended sample. -/
def Obligations.GetrdAnswersTheFirstReadySample : Prop :=
  ∀ (s : State) (m : Nat), s.busy = false → s.ReadyAfter m → ReadingCourse .getrd id m s

/-- R140, R144: `GETLED` answers with one reading less `ZOFF`; with `cl` a negative result is 0. -/
def Obligations.GetledAnswersTheOffsetReading : Prop :=
  ∀ (s : State) (cl : Bool) (m : Nat), s.busy = false → s.ReadyAfter m →
    ReadingCourse (.getled cl)
      (fun v => if cl = true ∧ v.toInt - s.zoff.toInt < 0 then 0 else wordOf s.cfg (v.toInt - s.zoff.toInt)) m s

/-- R138, R114, R194, U2: the unbounded waits are kept. There is no way out of `GetReading`, in `GETRD`, `GETLED` or
`SCAN`, but a poll that reads 1, a bus fault or reset; and none out of `WaitCal` with a timeout of 0 or below, in
`WAITCAL`, `CALAFE` or (with such a default) `BEGIN`, but a poll that reads 0, a bus fault or reset: against a device
whose bit never comes, the command stands at its next poll after any number of polls, `BUSY` is 1, nothing has been
answered and no register has changed. The last clauses say the same of `GETRD` and `GETLED` from their acceptance. -/
def Obligations.GetrdNeverEndsWithoutTheDevice : Prop :=
  ∀ (s : State) (m : Nat),
    let waits := fun (f : BitField) (b : Bool) =>
      ∀ j, j < m → (s.moveAt (2 * j)).busFault = none ∧ s.bitAt (2 * j) f = b
    let hangs := fun (i : Instr) (p : Running) (s1 : State) =>
      ∃ t, execN i (2 * m) s1 = .next t ∧ t.busy = true ∧ t.run = some p ∧ SameRegs s t
        ∧ t.dev = s.devAfter (2 * m) ∧ ∀ r, Event.resp r ∈ t.trace → Event.resp r ∈ s.trace
    (s.busy = true → ∀ i pos, Reads i pos → s.run = some (pos .poll) → waits s.cfg.regMap.fCr false →
        hangs i (pos .poll) s)
      ∧ (s.busy = true → ∀ i t pos success, Waits s.cfg i t pos success → t ≤ 0 →
          s.run = some (pos (.stat .startBit)) → waits s.cfg.regMap.fCals true → hangs i (pos (.stat .startBit)) s)
      ∧ (s.busy = false → waits s.cfg.regMap.fCr false →
          (∃ s1, exec .getrd s = .next s1 ∧ hangs .getrd (.getrd .poll) s1)
            ∧ ∀ cl, ∃ s1, exec (.getled cl) s = .next s1 ∧ hangs (.getled cl) (.getled cl .poll) s1)

/-- R139, R143: with every poll ready and the budget kept, `GETAVG n` takes exactly `n` samples and answers with their
sum divided by `n`, rounded toward zero; `ZOFF` takes no part. -/
def Obligations.GetavgAnswersTheTruncatedMean : Prop :=
  ∀ (s : State) (n : BitVec 16), s.busy = false → countFits s.cfg n = true → s.SamplesInTime n.toNat →
    ∃ s1 t, exec (.getavg n) s = .next s1 ∧ execN (.getavg n) (4 * n.toNat) s1 = .next t ∧ t.busy = false
      ∧ t.trace.head? = some (.resp ⟨0x00, wordOf s.cfg ((s.sampleSum n.toNat).tdiv n.toNat)⟩)
      ∧ t.dev = s.devAfter (4 * n.toNat)
      ∧ SameCal s t ∧ SameZoff s t ∧ SameResults s t ∧ SameScanWork s t ∧ SameOutside s t ∧ t.iter = s.iter

/-- R122, R139, R143, R170, R175 d: `Average(n)` inside `GETAVG` and `CALZERO`. It takes the start time once and clears
the sum; the count is tested before the time, and the time strictly: the sample that completes the count ends the
command whatever the time, and `CALZERO` then stores the mean in `ZOFF`; after any other poll or sample, more than the
budget since the start is `SampleTimeout`, and otherwise a delay and the next poll follow. `ZOFF` changes nowhere else. -/
def Obligations.AverageTestsTheCountBeforeTheTime : Prop :=
  ∀ (s : State) (n : BitVec 16) (i : Instr) (pos : AvgPos → Running), Averages n i pos → s.busy = true →
    (s.run = some (pos .stamp) →
      ∃ u, exec i s = .next u ∧ u.trace = .now (s.environ 0).now :: s.trace ∧ u.t0 = (s.environ 0).now
        ∧ u.acc = 0 ∧ u.k = 0 ∧ u.run = some (pos .poll) ∧ SameZoff s u)
      ∧ (s.run = some (pos .poll) → (s.moveAt 0).busFault = none →
          ∃ u, exec i s = .next u ∧ SameZoff s u
            ∧ u.run = some (if s.bitAt 0 s.cfg.regMap.fCr then pos .sample else pos .clock))
      ∧ (s.run = some (pos .sample) → (s.moveAt 0).busFault = none →
          ∃ u, exec i s = .next u ∧ u.k = s.k + 1 ∧ u.acc = s.acc + (s.sampleAt 0).signExtend 48
            ∧ (s.k + 1 = n → u.run = some (.respond (some i) ⟨0x00, meanOf s.cfg u.acc n⟩)
                ∧ u.zoff = if i = .calzero n then meanOf s.cfg u.acc n else s.zoff)
            ∧ (s.k + 1 ≠ n → u.run = some (pos .clock) ∧ SameZoff s u))
      ∧ (s.run = some (pos .clock) →
          ∃ u, exec i s = .next u ∧ u.trace = .now (s.environ 0).now :: s.trace ∧ SameZoff s u
            ∧ (s.cfg.avgBudgetMs.toNat < ((s.environ 0).now - s.t0).toNat → FailedWith i .sampleTimeout s u)
            ∧ (((s.environ 0).now - s.t0).toNat ≤ s.cfg.avgBudgetMs.toNat → u.run = some (pos .pause)))
      ∧ (s.run = some (pos .pause) →
          ∃ u, exec i s = .next u ∧ u.trace = .delay s.cfg.avgPollMs :: s.trace ∧ u.run = some (pos .poll)
            ∧ SameZoff s u)

/-- R136: a sample count of 0 is refused with `IllegalOperand` before any interaction; a count from 1 to `NMAX` is
accepted, so with R8's value, 65535, every other count. That a smaller `NMAX` refuses the counts above it in the same
way is the model's choice (log 14). -/
def Obligations.ZeroCountIsRefusedBeforeAnyInteraction : Prop :=
  ∀ (s : State) (n : BitVec 16), s.busy = false →
    (n = 0 ∨ s.cfg.nmax < n → AnswerCourse (.getavg n) ⟨0x0E, 0⟩ s ∧ AnswerCourse (.calzero n) ⟨0x0E, 0⟩ s)
      ∧ (n ≠ 0 → n ≤ s.cfg.nmax → (∃ t, exec (.getavg n) s = .next t ∧ t.run = some (.getavg n .stamp))
          ∧ ∃ t, exec (.calzero n) s = .next t ∧ t.run = some (.calzero n .stamp))
      ∧ (s.cfg.nmax = 65535 → n ≤ s.cfg.nmax)

/-- R145 c: the mean is the quotient rounded toward zero: the remainder is smaller than the count and has the sign of
the sum; the mean of `n` samples is a Sample. -/
def Obligations.MeanRoundsTowardZero : Prop :=
  ∀ (cfg : Config) (acc : BitVec 48) (n : BitVec 16), 32 ≤ cfg.xlen → n ≠ 0 →
    -(n.toNat * 2 ^ 23 : Int) ≤ acc.toInt → acc.toInt ≤ n.toNat * (2 ^ 23 - 1) →
      IsSample (meanOf cfg acc n)
        ∧ ∃ r : Int, acc.toInt = (meanOf cfg acc n).toInt * n.toNat + r ∧ |r| < n.toNat
          ∧ (0 ≤ acc.toInt → 0 ≤ r) ∧ (acc.toInt ≤ 0 → r ≤ 0)

/-- R140, R145 d: the difference of two Samples is exact on 32-bit words, the 32-bit subtraction, and in its range;
with the clamp a negative difference is 0. -/
def Obligations.OffsetReadingIsExact : Prop :=
  ∀ (cfg : Config) (reading zoff : Word), 32 ≤ cfg.xlen → IsSample reading → IsSample zoff →
    (offsetReading cfg false reading zoff).toInt = reading.toInt - zoff.toInt
      ∧ offsetReading cfg false reading zoff = reading - zoff
      ∧ IsDifference (offsetReading cfg false reading zoff)
      ∧ (offsetReading cfg true reading zoff).toInt = max (reading.toInt - zoff.toInt) 0

/-! ## Scan and state reads -/

/-- R151, R152, R153: with every poll ready and no fault, `SCAN` lights its channels one after the other, 0 to 7 with
`NCH` = 8, waits the settle delay, takes one reading of each, turns it off, and commits the readings less `ZOFF` with
`SRV`; its events are exactly the listed ones; the channels are off at the end. -/
def Obligations.ScanCommitsEightReadings : Prop :=
  ∀ s : State, s.busy = false → s.cfg.sizesFit = true →
    let n := s.cfg.nch.toNat
    (∀ c, c < n → (s.moveAt (5 * c + 2)).busFault = none ∧ (s.moveAt (5 * c + 3)).busFault = none
      ∧ s.bitAt (5 * c + 2) s.cfg.regMap.fCr = true) →
      ∃ s1 t, exec .scan s = .next s1 ∧ execN .scan (5 * n + 1) s1 = .next t ∧ t.busy = false
        ∧ t.srv = true
        ∧ (∀ c : BitVec 3, resultAt t.sr c =
            if c.toNat < n then wordOf s.cfg ((s.sampleAt (5 * c.toNat + 3)).toInt - s.zoff.toInt) else resultAt s.sr c)
        ∧ t.trace = .resp ⟨0x00, 0⟩ :: s.scanEvents n ++ .accept (encode .scan) :: s.trace
        ∧ (∀ c : Fin 8, t.led[c] = if c.val < n then false else s.led[c]) ∧ t.ledonValid = false
        ∧ t.ch = s.cfg.nch
        ∧ t.dev = s.devAfter (5 * n + 1) ∧ SameCal s t ∧ SameZoff s t ∧ SamePollWork s t ∧ t.cfg = s.cfg
        ∧ t.port = s.port

/-- R26, R27, R152: `SR` and `SRV` change only in the one step in which `SCAN` turns its last channel off, channel 7
with `NCH` = 8; then the results of all its channels, all eight, take the gathered values and `SRV` becomes 1. -/
def Obligations.OnlyTheLastStepOfScanWritesResults : Prop :=
  ∀ (i : Instr) (s t : State), exec i s = .next t →
    SameResults s t
      ∨ (i = .scan ∧ s.run = some (.scan .lightOff) ∧ s.ch + 1 = s.cfg.nch ∧ t.srv = true ∧ t.ch = s.cfg.nch
          ∧ (∀ c : BitVec 3,
              resultAt t.sr c = if c.toNat < s.cfg.nch.toNat then resultAt s.w c else resultAt s.sr c)
          ∧ (s.cfg.nch = 8 → s.ch = 7 ∧ t.sr = s.w)
          ∧ t.run = some (.respond (some .scan) ⟨0x00, 0⟩))

/-- R152, R176: a bus fault while a channel is lit turns that channel off before the failure is answered; `SR`, `SRV`,
`CAL_STATE` and `FCAUSE` stay. -/
def Obligations.ScanFailureTurnsTheChannelOff : Prop :=
  ∀ (s : State) (p : ReadPos), s.busy = true → s.run = some (.scan (.reading p)) → p ≠ .pause →
    s.ledonValid = true → (s.moveAt 0).busFault.isSome = true →
      ∃ s1 s2 t, exec .scan s = .next s1 ∧ exec .scan s1 = .next s2 ∧ exec .scan s2 = .next t
        ∧ s1.led = s.led ∧ s2.led = setChannel s.led s.ledonIdx false ∧ s2.ledonValid = false
        ∧ t.led = s2.led ∧ t.busy = false ∧ t.ledonValid = false ∧ SameResults s t ∧ SameCal s t ∧ SameZoff s t
        ∧ ∃ e, t.trace = .resp ⟨0x01, 0⟩ :: .led s.ledonIdx false :: e :: s.trace ∧ e.busDevice.isSome = true

/-- R154: `RDSR`, opcode 0x31, answers with the result of the last completed scan, or with `NoData` while there is none. -/
def Obligations.RdsrAnswersTheResultOrNoData : Prop :=
  ∀ (s : State) (idx : BitVec 3), s.busy = false →
    encode (.rdsr idx) = 0x31#8 ++ 0#21 ++ idx
      ∧ AnswerCourse (.rdsr idx) (if s.srv then ⟨0x00, resultAt s.sr idx⟩ else ⟨0x06, 0⟩) s

/-- R74, R155: `RDSTATE`, opcode 0x32, answers with `CAL_STATE` in bits 2:0, `SRV` in bit 3, `FCAUSE` in bits 15:8
and zeros; under the calibration invariant never with one of the states 1 to 4. -/
def Obligations.RdstateAnswersTheStateWord : Prop :=
  ∀ s : State, s.busy = false →
    encode .rdstate = 0x32000000 ∧ ∃ v : Word, AnswerCourse .rdstate ⟨0x00, v⟩ s
      ∧ v.extractLsb' 0 3 = s.calState ∧ v.getLsbD 3 = s.srv ∧ v.extractLsb' 4 4 = 0#4
      ∧ v.extractLsb' 8 8 = s.fcause ∧ v.extractLsb' 16 16 = 0#16
      ∧ (s.CalInv → v.extractLsb' 0 3 = 0#3 ∨ v.extractLsb' 0 3 = 5#3 ∨ v.extractLsb' 0 3 = 6#3)

/-- R156: `RDZOFF`, opcode 0x33, answers with `ZOFF`. -/
def Obligations.RdzoffAnswersTheZeroOffset : Prop :=
  ∀ s : State, s.busy = false → encode .rdzoff = 0x33000000 ∧ AnswerCourse .rdzoff ⟨0x00, s.zoff⟩ s

/-! ## Rules over all commands and steps -/

/-- R6, R11, R41: each step of a command in execution is exactly one interaction: it adds one event to the ports and
uses one move, and a bus interaction goes to the device at `DEVADDR`. -/
def Obligations.EachStepIsOneInteraction : Prop :=
  ∀ s t : State, s.scriptedReset = none → step s = .next t →
    (s.busy = true → s.run ≠ none →
      ∃ e, t.trace = e :: s.trace ∧ t.tick = s.tick + 1 ∧ t.script = s.script.tail
        ∧ ∀ d, e.busDevice = some d → d = s.cfg.devAddr)
      ∧ (s.busy = false → ∀ cw rest, s.port = cw :: rest →
          t.trace = .accept cw :: s.trace ∧ t.tick = s.tick ∧ t.dev = s.dev ∧ t.now = s.now)

/-- R45, R166, R173, R176: a bus interaction of any command that faults ends the command with `(BusFault, 0)`, at
whatever position; `BEGIN` then is Faulted with that cause; a `SCAN` with a lit channel first goes to its failure
action. -/
def Obligations.AnyBusFaultEndsTheCommand : Prop :=
  ∀ (i : Instr) (s t : State) (r : Running) (e : Event),
    s.busy = true → s.run = some r → r.instr = some i → (s.moveAt 0).busFault.isSome = true →
    exec i s = .next t → t.trace = e :: s.trace → e.busDevice.isSome = true →
      if i = .scan ∧ s.ledonValid = true then t.run = some (.scan (.abort .busFault)) ∧ t.ledonIdx = s.ledonIdx
      else t.run = some (.respond (some i) ⟨0x01, 0⟩) ∧ ∀ l g x, i = .begin l g x → t.calState = 6 ∧ t.fcause = 0x01

/-- R12: a delay lasts at least its length in the normative profile, and any longer time is possible; exactly its
length in the exact profile. -/
def Obligations.DelayIsALowerBound : Prop :=
  ∀ (s : State) (k : Word),
    (s.cfg.timeProfile = .lowerBound → k.toNat ≤ ((delay k s).now - s.now).toNat)
      ∧ (s.cfg.timeProfile = .exact → (delay k s).now = s.now + k)
      ∧ ∀ (d : Word) (m : Move) (ms : List Move), s.cfg.timeProfile = .lowerBound → k.toNat ≤ d.toNat →
          s.script = m :: ms → m.elapse = d → (delay k s).now = s.now + d

/-- R31, R43, R53, R54, R150: a step that is a bus write stores to its one register the byte it writes, the byte a
read-modify-write has made or the chopper value, or after a fault the byte the device chose; every other register, and
every register in every other step, is as the device's own changes leave it. A step that is a `LedSet` switches its one
channel, and no other step switches any. -/
def Obligations.OnlyBusWritesStoreToTheDevice : Prop :=
  ∀ s t : State, s.scriptedReset = none → step s = .next t →
    (∀ a v, s.stores = some (a, v) →
      t.trace = .wr s.cfg.devAddr a v s.writeOk :: s.trace
        ∧ t.dev = Memory.write (s.devAfter 1) a (s.writtenByte v)
        ∧ ∀ b, Memory.wf s.dev = true → b ≠ a → Memory.read t.dev b = Memory.read (s.devAfter 1) b)
      ∧ (s.stores = none → s.busy = true ∨ s.port = [] → t.dev = s.devAfter 1)
      ∧ (s.busy = false → s.port ≠ [] → t.dev = s.dev)
      ∧ (∀ c on, s.switches = some (c, on) →
          t.trace = .led c on :: s.trace ∧ t.led = setChannel s.led c on)
      ∧ (s.switches = none → t.led = s.led)

/-- The frame of every command (the "State written" line of each command's rule): what its steps leave unchanged. -/
def Obligations.EachCommandWritesOnlyItsRegisters : Prop :=
  ∀ (i : Instr) (s t : State), exec i s = .next t →
    t.cfg = s.cfg ∧ t.port = s.port
      ∧ match i with
        | .getbit _ _ | .setbit _ _ | .clrbit _ _ | .decode _ | .setgain _ | .setrate _ | .setldo _ | .calstat | .avail
        | .getrd | .getled _ | .rdsr _ | .rdstate | .rdzoff => SameRegs s t
        | .calafe _ | .waitcal _ =>
          SameCal s t ∧ SameZoff s t ∧ SameResults s t ∧ SameScanWork s t ∧ SameOutside s t
            ∧ t.acc = s.acc ∧ t.k = s.k ∧ t.iter = s.iter
        | .getavg _ =>
          SameCal s t ∧ SameZoff s t ∧ SameResults s t ∧ SameScanWork s t ∧ SameOutside s t ∧ t.iter = s.iter
        | .calzero _ => SameCal s t ∧ SameResults s t ∧ SameScanWork s t ∧ SameOutside s t ∧ t.iter = s.iter
        | .begin _ _ _ =>
          SameZoff s t ∧ SameResults s t ∧ SameScanWork s t ∧ SameOutside s t ∧ t.acc = s.acc ∧ t.k = s.k
        | .scan => SameCal s t ∧ SameZoff s t ∧ SamePollWork s t

/-- R23: no command's behaviour depends on `CAL_STATE`: but for `BEGIN`, which writes it, and `RDSTATE`, which reads it
out, a command does the same from any value of it. -/
def Obligations.NoCommandIsGatedByTheCalibrationState : Prop :=
  ∀ (i : Instr) (s t : State) (c : BitVec 3), (∀ l g r, i ≠ .begin l g r) → i ≠ .rdstate → exec i s = .next t →
    exec i { s with calState := c } = .next { t with calState := c }

/-- The invariants below hold right after reset. -/
def Obligations.InvariantsHoldAtReset : Prop :=
  State.reset.BusyInv ∧ State.reset.CalInv ∧ State.reset.RangeInv ∧ State.reset.PollInv ∧ State.reset.LedInv
    ∧ State.reset.OrderInv ∧ State.reset.CauseInv ∧ Memory.wf State.reset.dev = true
    ∧ State.reset.cfg.wf = true

/-- R24: every step keeps `BUSY` equal to whether a command is in execution. -/
def Obligations.StepKeepsBusyTrue : Prop := ∀ s t : State, s.BusyInv → step s = .next t → t.BusyInv

/-- R20, R21, R110, R155: every step keeps the calibration state machine's invariant. -/
def Obligations.StepKeepsTheCalibrationStates : Prop := ∀ s t : State, s.CalInv → step s = .next t → t.CalInv

/-- R25, R26, R28, R29, R145: every step keeps the ranges of `ZOFF`, `SR`, `CH`, `W` and `ACC`; so no operation
overflows. -/
def Obligations.StepKeepsTheRanges : Prop := ∀ s t : State, s.RangeInv → step s = .next t → t.RangeInv

/-- R29, R112: every step keeps the count of power-up polls below the number allowed. -/
def Obligations.StepKeepsThePollCount : Prop := ∀ s t : State, s.PollInv → step s = .next t → t.PollInv

/-- R153: every step but one that reset cuts off keeps at most one channel lit, the one `LEDON` names. -/
def Obligations.StepKeepsOneChannelLit : Prop :=
  ∀ s t : State, s.LedInv → s.scriptedReset = none → step s = .next t →
    t.LedInv ∧ ∀ a b : Fin 8, t.led[a] = true → t.led[b] = true → a = b

/-- R22, R72: every step keeps the order of events: one response to each accepted word, no acceptance while one is in
execution, no interaction outside a command. -/
def Obligations.StepKeepsThePortOrder : Prop := ∀ s t : State, s.OrderInv → step s = .next t → t.OrderInv

/-- R172: every step keeps it that a command is answered with OK or with a cause of its row, with value 0. -/
def Obligations.StepKeepsTheCausesInTheirRows : Prop := ∀ s t : State, s.CauseInv → step s = .next t → t.CauseInv

/-- R40: every step keeps the canonical form of the device's register space. -/
def Obligations.StepKeepsTheRegisterSpaceCanonical : Prop :=
  ∀ s t : State, Memory.wf s.dev = true → step s = .next t → Memory.wf t.dev = true

/-- R8: no step changes the parameters. -/
def Obligations.StepKeepsTheParameters : Prop := ∀ s t : State, step s = .next t → t.cfg = s.cfg
end

