-- ==== Sys2Proof/Laws/Arithmetic.lean ====
section
/-! SUPPORT. The sizes of R8 in arithmetic: stored words, samples of `SAMPLE_BITS` bits, counts, committed results. -/

namespace Sys2Proof.Machine

/-- With words of at least 32 bits a stored integer is its 32-bit word. -/
theorem wordOf_eq {cfg : Config} (h : 32 ≤ cfg.xlen) (v : Int) : wordOf cfg v = BitVec.ofInt 32 v := by
  have hs : (BitVec.ofInt cfg.xlen v).signExtend 32 = BitVec.ofInt 32 (BitVec.ofInt cfg.xlen v).toInt := rfl
  rw [wordOf, hs, BitVec.toInt_ofInt]
  apply BitVec.eq_of_toInt_eq
  rw [BitVec.toInt_ofInt, BitVec.toInt_ofInt]
  exact Int.bmod_bmod_of_dvd (Nat.pow_dvd_pow 2 h)

/-- A stored integer of a word's range keeps its value. -/
theorem wordOf_toInt {cfg : Config} (h : 32 ≤ cfg.xlen) {v : Int} (hl : -(2 ^ 31) ≤ v) (hu : v < 2 ^ 31) :
    (wordOf cfg v).toInt = v := by
  rw [wordOf_eq h, BitVec.toInt_ofInt]
  apply Int.bmod_eq_of_le <;> norm_num <;> omega

/-- The low bits of a raw result as a number lie in a Sample's range. -/
theorem sampleValue_range {cfg : Config} (h : cfg.sampleBits ≤ 24) (u : Raw) :
    -(2 ^ 23) ≤ sampleValue cfg u ∧ sampleValue cfg u ≤ 2 ^ 23 - 1 := by
  have hp : (2 : Int) ^ (cfg.sampleBits - 1) ≤ 2 ^ 23 := by
    exact_mod_cast Nat.pow_le_pow_right (by decide : 0 < 2) (by omega : cfg.sampleBits - 1 ≤ 23)
  have h1 := BitVec.le_toInt (u.setWidth cfg.sampleBits)
  have h2 : (u.setWidth cfg.sampleBits).toInt ≤ 2 ^ (cfg.sampleBits - 1) - 1 := BitVec.toInt_le
  unfold sampleValue
  omega

theorem sizesFit_iff (cfg : Config) :
    cfg.sizesFit = true ↔ (1 ≤ cfg.nch.toNat ∧ cfg.nch.toNat ≤ 8) ∧ (1 ≤ cfg.sampleBits ∧ cfg.sampleBits ≤ 24)
      ∧ 32 ≤ cfg.xlen := by
  simp [Config.sizesFit, and_assoc]

/-- A decoded sample is a Sample, with its number as value. -/
theorem decodeSample_toInt {cfg : Config} (h : cfg.sizesFit = true) (y0 y1 y2 : Byte) :
    (decodeSample cfg y0 y1 y2).toInt = sampleValue cfg (y0 ++ y1 ++ y2) := by
  obtain ⟨-, ⟨-, hb⟩, hx⟩ := (sizesFit_iff cfg).mp h
  have := sampleValue_range hb (y0 ++ y1 ++ y2)
  exact wordOf_toInt hx (by omega) (by omega)

/-- The samples the coming moves bring are Samples. -/
theorem isSample_sampleAt {s : State} (h : s.cfg.sizesFit = true) (j : Nat) : IsSample (s.sampleAt j) := by
  rw [State.sampleAt, IsSample, decodeSample_toInt h]
  exact sampleValue_range ((sizesFit_iff s.cfg).mp h).2.1.2 _

theorem countFits_iff (cfg : Config) (n : BitVec 16) : countFits cfg n = true ↔ n ≠ 0 ∧ n ≤ cfg.nmax := by
  simp [countFits]

/-- A result after the commit of a scan of `nch` channels (R152). -/
theorem resultAt_committed (nch : BitVec 4) (w sr : Vector Word 8) (i : BitVec 3) :
    resultAt (committed nch w sr) i = if i.toNat < nch.toNat then resultAt w i else resultAt sr i := by
  simp [resultAt, committed]

/-- With `NCH` = 8 all eight results take the gathered values. -/
theorem committed_eight (w sr : Vector Word 8) : committed 8 w sr = w := by
  ext i hi
  simp [committed]

end Sys2Proof.Machine
end

