-- ==== Sys2Proof/Laws/Memory.lean ====
section
/-! SUPPORT. The laws of the device's register space: read after write, and the canonical form is kept. -/

namespace Sys2Proof.Machine

theorem get_cellOf_append (a : Nat) (v : Byte) (m : Memory) (b : Nat) (h : v = unlistedByte → Memory.get m a = unlistedByte) :
    Memory.get (cellOf a v ++ m) b = if a = b then v else Memory.get m b := by
  unfold cellOf
  by_cases hv : v = unlistedByte
  · by_cases hab : a = b
    · subst hab; simp [hv, h hv]
    · simp [hv, hab]
  · simp [hv, Memory.get]

/-- Addresses below a canonical memory's bound are unlisted. -/
theorem get_below (m : Memory) (low a : Nat) (h : Memory.wfFrom low m = true) (ha : a < low) :
    Memory.get m a = unlistedByte := by
  induction m generalizing low with
  | nil => rfl
  | cons c m ih =>
    obtain ⟨key, b⟩ := c
    simp only [Memory.wfFrom, Bool.and_eq_true, decide_eq_true_eq] at h
    have hk : key ≠ a := by omega
    simp [Memory.get, hk, ih (key + 1) h.2 (by omega)]

theorem get_put (m : Memory) (low a : Nat) (v : Byte) (b : Nat) (h : Memory.wfFrom low m = true) :
    Memory.get (Memory.put m a v) b = if a = b then v else Memory.get m b := by
  induction m generalizing low with
  | nil => simpa [Memory.put] using get_cellOf_append a v [] b (fun _ => rfl)
  | cons c m ih =>
    obtain ⟨key, x⟩ := c
    simp only [Memory.wfFrom, Bool.and_eq_true, decide_eq_true_eq] at h
    simp only [Memory.put]
    split
    · rename_i hlt
      refine get_cellOf_append a v _ b (fun _ => ?_)
      have hne : key ≠ a := by omega
      simp only [Memory.get, hne, if_false]
      exact get_below m (key + 1) a h.2 (by omega)
    · split
      · rename_i hge heq
        subst heq
        rw [get_cellOf_append a v m b (fun _ => get_below m (a + 1) a h.2 (by omega))]
        by_cases hab : a = b <;> simp [Memory.get, hab]
      · rename_i hge hne
        by_cases hkb : key = b
        · have hab : a ≠ b := by omega
          simp [Memory.get, hkb, hab]
        · simp [Memory.get, hkb, ih (key + 1) h.2]

theorem wfFrom_weaken (m : Memory) (low low' : Nat) (h : Memory.wfFrom low m = true) (hl : low' ≤ low) :
    Memory.wfFrom low' m = true := by
  cases m with
  | nil => rfl
  | cons c m =>
    simp only [Memory.wfFrom, Bool.and_eq_true, decide_eq_true_eq] at h ⊢
    exact ⟨⟨⟨by omega, h.1.1.2⟩, h.1.2⟩, h.2⟩

theorem wfFrom_cellOf_append (m : Memory) (low a : Nat) (v : Byte) (h : Memory.wfFrom (a + 1) m = true) (hl : low ≤ a)
    (ha : a < 256) : Memory.wfFrom low (cellOf a v ++ m) = true := by
  unfold cellOf
  split
  · exact wfFrom_weaken m _ _ h (by omega)
  · rename_i hv
    simp [Memory.wfFrom, hl, ha, hv, h]

theorem wfFrom_put (m : Memory) (low a : Nat) (v : Byte) (h : Memory.wfFrom low m = true) (hl : low ≤ a) (ha : a < 256) :
    Memory.wfFrom low (Memory.put m a v) = true := by
  induction m generalizing low with
  | nil => simpa [Memory.put] using wfFrom_cellOf_append [] low a v rfl hl ha
  | cons c m ih =>
    obtain ⟨key, x⟩ := c
    have h' := h
    simp only [Memory.wfFrom, Bool.and_eq_true, decide_eq_true_eq] at h
    obtain ⟨⟨⟨hlk, hk⟩, hx⟩, ht⟩ := h
    simp only [Memory.put]
    split
    · refine wfFrom_cellOf_append _ low a v ?_ hl ha
      simp only [Memory.wfFrom, Bool.and_eq_true, decide_eq_true_eq]
      exact ⟨⟨⟨by omega, hk⟩, hx⟩, ht⟩
    · split
      · rename_i heq
        subst heq
        exact wfFrom_cellOf_append _ low a v ht hl ha
      · simp only [Memory.wfFrom, Bool.and_eq_true, decide_eq_true_eq]
        exact ⟨⟨⟨hlk, hk⟩, hx⟩, ih (key + 1) ht (by omega)⟩

/-- A write keeps the canonical form. -/
theorem write_wf (m : Memory) (a v : Byte) (h : Memory.wf m = true) : Memory.wf (Memory.write m a v) = true :=
  wfFrom_put m 0 a.toNat v h (Nat.zero_le _) (by have := a.isLt; omega)

/-- Several writes keep the canonical form. -/
theorem writeAll_wf (m : Memory) (cs : List (Byte × Byte)) (h : Memory.wf m = true) :
    Memory.wf (Memory.writeAll m cs) = true := by
  induction cs generalizing m with
  | nil => exact h
  | cons c cs ih => exact ih _ (write_wf m c.1 c.2 h)

/-- A read gives the last byte written to the register, and a write leaves every other register alone. -/
theorem read_write (m : Memory) (a v b : Byte) (h : Memory.wf m = true) :
    Memory.read (Memory.write m a v) b = if a = b then v else Memory.read m b := by
  have := get_put m 0 a.toNat v b.toNat h
  simpa [Memory.read, Memory.write, BitVec.toNat_inj] using this

theorem read_write_same (m : Memory) (a v : Byte) (h : Memory.wf m = true) :
    Memory.read (Memory.write m a v) a = v := by simp [read_write m a v a h]

theorem read_write_other (m : Memory) (a v b : Byte) (h : Memory.wf m = true) (hab : a ≠ b) :
    Memory.read (Memory.write m a v) b = Memory.read m b := by simp [read_write m a v b h, hab]

/-- The space right after reset is in canonical form. -/
theorem reset_dev_wf : Memory.wf State.reset.dev = true := rfl

end Sys2Proof.Machine
end

