-- ==== Sys2Proof/Laws/State.lean ====
section
/-! SUPPORT. One lemma per field per update of the state, true by rfl, so that no later proof unfolds an update. -/

namespace Sys2Proof.Machine

variable (s : State)

/-! ## environ: The other agents' move changes time, the device's registers, and what is left of the script (R5, R6, R12) -/

@[simp] theorem environ_calState (least : Word) : (s.environ least).calState = s.calState := rfl
@[simp] theorem environ_fcause (least : Word) : (s.environ least).fcause = s.fcause := rfl
@[simp] theorem environ_busy (least : Word) : (s.environ least).busy = s.busy := rfl
@[simp] theorem environ_zoff (least : Word) : (s.environ least).zoff = s.zoff := rfl
@[simp] theorem environ_sr (least : Word) : (s.environ least).sr = s.sr := rfl
@[simp] theorem environ_srv (least : Word) : (s.environ least).srv = s.srv := rfl
@[simp] theorem environ_ch (least : Word) : (s.environ least).ch = s.ch := rfl
@[simp] theorem environ_w (least : Word) : (s.environ least).w = s.w := rfl
@[simp] theorem environ_ledonValid (least : Word) : (s.environ least).ledonValid = s.ledonValid := rfl
@[simp] theorem environ_ledonIdx (least : Word) : (s.environ least).ledonIdx = s.ledonIdx := rfl
@[simp] theorem environ_acc (least : Word) : (s.environ least).acc = s.acc := rfl
@[simp] theorem environ_k (least : Word) : (s.environ least).k = s.k := rfl
@[simp] theorem environ_t0 (least : Word) : (s.environ least).t0 = s.t0 := rfl
@[simp] theorem environ_iter (least : Word) : (s.environ least).iter = s.iter := rfl
@[simp] theorem environ_run (least : Word) : (s.environ least).run = s.run := rfl
@[simp] theorem environ_cfg (least : Word) : (s.environ least).cfg = s.cfg := rfl
@[simp] theorem environ_port (least : Word) : (s.environ least).port = s.port := rfl
@[simp] theorem environ_trace (least : Word) : (s.environ least).trace = s.trace := rfl
@[simp] theorem environ_now (least : Word) : (s.environ least).now = s.now + timePassed s.cfg.timeProfile least (s.moveAt 0).elapse := rfl
@[simp] theorem environ_dev (least : Word) : (s.environ least).dev = s.devAfter 1 := rfl
@[simp] theorem environ_led (least : Word) : (s.environ least).led = s.led := rfl
@[simp] theorem environ_script (least : Word) : (s.environ least).script = s.script.tail := rfl
@[simp] theorem environ_tick (least : Word) : (s.environ least).tick = s.tick + 1 := rfl

/-! ## log: An event is recorded and nothing else changes (R7) -/

@[simp] theorem log_calState (e : Event) : (s.log e).calState = s.calState := rfl
@[simp] theorem log_fcause (e : Event) : (s.log e).fcause = s.fcause := rfl
@[simp] theorem log_busy (e : Event) : (s.log e).busy = s.busy := rfl
@[simp] theorem log_zoff (e : Event) : (s.log e).zoff = s.zoff := rfl
@[simp] theorem log_sr (e : Event) : (s.log e).sr = s.sr := rfl
@[simp] theorem log_srv (e : Event) : (s.log e).srv = s.srv := rfl
@[simp] theorem log_ch (e : Event) : (s.log e).ch = s.ch := rfl
@[simp] theorem log_w (e : Event) : (s.log e).w = s.w := rfl
@[simp] theorem log_ledonValid (e : Event) : (s.log e).ledonValid = s.ledonValid := rfl
@[simp] theorem log_ledonIdx (e : Event) : (s.log e).ledonIdx = s.ledonIdx := rfl
@[simp] theorem log_acc (e : Event) : (s.log e).acc = s.acc := rfl
@[simp] theorem log_k (e : Event) : (s.log e).k = s.k := rfl
@[simp] theorem log_t0 (e : Event) : (s.log e).t0 = s.t0 := rfl
@[simp] theorem log_iter (e : Event) : (s.log e).iter = s.iter := rfl
@[simp] theorem log_run (e : Event) : (s.log e).run = s.run := rfl
@[simp] theorem log_cfg (e : Event) : (s.log e).cfg = s.cfg := rfl
@[simp] theorem log_port (e : Event) : (s.log e).port = s.port := rfl
@[simp] theorem log_trace (e : Event) : (s.log e).trace = e :: s.trace := rfl
@[simp] theorem log_now (e : Event) : (s.log e).now = s.now := rfl
@[simp] theorem log_dev (e : Event) : (s.log e).dev = s.dev := rfl
@[simp] theorem log_led (e : Event) : (s.log e).led = s.led := rfl
@[simp] theorem log_script (e : Event) : (s.log e).script = s.script := rfl
@[simp] theorem log_tick (e : Event) : (s.log e).tick = s.tick := rfl

/-! ## goto: The position moves and nothing else changes (R24) -/

@[simp] theorem goto_calState (r : Running) : (s.goto r).calState = s.calState := rfl
@[simp] theorem goto_fcause (r : Running) : (s.goto r).fcause = s.fcause := rfl
@[simp] theorem goto_busy (r : Running) : (s.goto r).busy = s.busy := rfl
@[simp] theorem goto_zoff (r : Running) : (s.goto r).zoff = s.zoff := rfl
@[simp] theorem goto_sr (r : Running) : (s.goto r).sr = s.sr := rfl
@[simp] theorem goto_srv (r : Running) : (s.goto r).srv = s.srv := rfl
@[simp] theorem goto_ch (r : Running) : (s.goto r).ch = s.ch := rfl
@[simp] theorem goto_w (r : Running) : (s.goto r).w = s.w := rfl
@[simp] theorem goto_ledonValid (r : Running) : (s.goto r).ledonValid = s.ledonValid := rfl
@[simp] theorem goto_ledonIdx (r : Running) : (s.goto r).ledonIdx = s.ledonIdx := rfl
@[simp] theorem goto_acc (r : Running) : (s.goto r).acc = s.acc := rfl
@[simp] theorem goto_k (r : Running) : (s.goto r).k = s.k := rfl
@[simp] theorem goto_t0 (r : Running) : (s.goto r).t0 = s.t0 := rfl
@[simp] theorem goto_iter (r : Running) : (s.goto r).iter = s.iter := rfl
@[simp] theorem goto_run (r : Running) : (s.goto r).run = some r := rfl
@[simp] theorem goto_cfg (r : Running) : (s.goto r).cfg = s.cfg := rfl
@[simp] theorem goto_port (r : Running) : (s.goto r).port = s.port := rfl
@[simp] theorem goto_trace (r : Running) : (s.goto r).trace = s.trace := rfl
@[simp] theorem goto_now (r : Running) : (s.goto r).now = s.now := rfl
@[simp] theorem goto_dev (r : Running) : (s.goto r).dev = s.dev := rfl
@[simp] theorem goto_led (r : Running) : (s.goto r).led = s.led := rfl
@[simp] theorem goto_script (r : Running) : (s.goto r).script = s.script := rfl
@[simp] theorem goto_tick (r : Running) : (s.goto r).tick = s.tick := rfl

/-! ## accept: Acceptance sets BUSY and is recorded (R22) -/

@[simp] theorem accept_calState (cw : Word) : (s.accept cw).calState = s.calState := rfl
@[simp] theorem accept_fcause (cw : Word) : (s.accept cw).fcause = s.fcause := rfl
@[simp] theorem accept_busy (cw : Word) : (s.accept cw).busy = true := rfl
@[simp] theorem accept_zoff (cw : Word) : (s.accept cw).zoff = s.zoff := rfl
@[simp] theorem accept_sr (cw : Word) : (s.accept cw).sr = s.sr := rfl
@[simp] theorem accept_srv (cw : Word) : (s.accept cw).srv = s.srv := rfl
@[simp] theorem accept_ch (cw : Word) : (s.accept cw).ch = s.ch := rfl
@[simp] theorem accept_w (cw : Word) : (s.accept cw).w = s.w := rfl
@[simp] theorem accept_ledonValid (cw : Word) : (s.accept cw).ledonValid = s.ledonValid := rfl
@[simp] theorem accept_ledonIdx (cw : Word) : (s.accept cw).ledonIdx = s.ledonIdx := rfl
@[simp] theorem accept_acc (cw : Word) : (s.accept cw).acc = s.acc := rfl
@[simp] theorem accept_k (cw : Word) : (s.accept cw).k = s.k := rfl
@[simp] theorem accept_t0 (cw : Word) : (s.accept cw).t0 = s.t0 := rfl
@[simp] theorem accept_iter (cw : Word) : (s.accept cw).iter = s.iter := rfl
@[simp] theorem accept_run (cw : Word) : (s.accept cw).run = s.run := rfl
@[simp] theorem accept_cfg (cw : Word) : (s.accept cw).cfg = s.cfg := rfl
@[simp] theorem accept_port (cw : Word) : (s.accept cw).port = s.port := rfl
@[simp] theorem accept_trace (cw : Word) : (s.accept cw).trace = .accept cw :: s.trace := rfl
@[simp] theorem accept_now (cw : Word) : (s.accept cw).now = s.now := rfl
@[simp] theorem accept_dev (cw : Word) : (s.accept cw).dev = s.dev := rfl
@[simp] theorem accept_led (cw : Word) : (s.accept cw).led = s.led := rfl
@[simp] theorem accept_script (cw : Word) : (s.accept cw).script = s.script := rfl
@[simp] theorem accept_tick (cw : Word) : (s.accept cw).tick = s.tick := rfl

/-! ## answer: A result moves the position to the response (R72) -/

@[simp] theorem answer_calState (i : Instr) (v : Word) : (s.answer i v).calState = s.calState := rfl
@[simp] theorem answer_fcause (i : Instr) (v : Word) : (s.answer i v).fcause = s.fcause := rfl
@[simp] theorem answer_busy (i : Instr) (v : Word) : (s.answer i v).busy = s.busy := rfl
@[simp] theorem answer_zoff (i : Instr) (v : Word) : (s.answer i v).zoff = s.zoff := rfl
@[simp] theorem answer_sr (i : Instr) (v : Word) : (s.answer i v).sr = s.sr := rfl
@[simp] theorem answer_srv (i : Instr) (v : Word) : (s.answer i v).srv = s.srv := rfl
@[simp] theorem answer_ch (i : Instr) (v : Word) : (s.answer i v).ch = s.ch := rfl
@[simp] theorem answer_w (i : Instr) (v : Word) : (s.answer i v).w = s.w := rfl
@[simp] theorem answer_ledonValid (i : Instr) (v : Word) : (s.answer i v).ledonValid = s.ledonValid := rfl
@[simp] theorem answer_ledonIdx (i : Instr) (v : Word) : (s.answer i v).ledonIdx = s.ledonIdx := rfl
@[simp] theorem answer_acc (i : Instr) (v : Word) : (s.answer i v).acc = s.acc := rfl
@[simp] theorem answer_k (i : Instr) (v : Word) : (s.answer i v).k = s.k := rfl
@[simp] theorem answer_t0 (i : Instr) (v : Word) : (s.answer i v).t0 = s.t0 := rfl
@[simp] theorem answer_iter (i : Instr) (v : Word) : (s.answer i v).iter = s.iter := rfl
@[simp] theorem answer_run (i : Instr) (v : Word) : (s.answer i v).run = some (.respond (some i) (okResponse v)) := rfl
@[simp] theorem answer_cfg (i : Instr) (v : Word) : (s.answer i v).cfg = s.cfg := rfl
@[simp] theorem answer_port (i : Instr) (v : Word) : (s.answer i v).port = s.port := rfl
@[simp] theorem answer_trace (i : Instr) (v : Word) : (s.answer i v).trace = s.trace := rfl
@[simp] theorem answer_now (i : Instr) (v : Word) : (s.answer i v).now = s.now := rfl
@[simp] theorem answer_dev (i : Instr) (v : Word) : (s.answer i v).dev = s.dev := rfl
@[simp] theorem answer_led (i : Instr) (v : Word) : (s.answer i v).led = s.led := rfl
@[simp] theorem answer_script (i : Instr) (v : Word) : (s.answer i v).script = s.script := rfl
@[simp] theorem answer_tick (i : Instr) (v : Word) : (s.answer i v).tick = s.tick := rfl

/-! ## deliver: The response clears BUSY and ends the command (R72) -/

@[simp] theorem deliver_calState (r : Response) : (s.deliver r).calState = s.calState := rfl
@[simp] theorem deliver_fcause (r : Response) : (s.deliver r).fcause = s.fcause := rfl
@[simp] theorem deliver_busy (r : Response) : (s.deliver r).busy = false := rfl
@[simp] theorem deliver_zoff (r : Response) : (s.deliver r).zoff = s.zoff := rfl
@[simp] theorem deliver_sr (r : Response) : (s.deliver r).sr = s.sr := rfl
@[simp] theorem deliver_srv (r : Response) : (s.deliver r).srv = s.srv := rfl
@[simp] theorem deliver_ch (r : Response) : (s.deliver r).ch = s.ch := rfl
@[simp] theorem deliver_w (r : Response) : (s.deliver r).w = s.w := rfl
@[simp] theorem deliver_ledonValid (r : Response) : (s.deliver r).ledonValid = s.ledonValid := rfl
@[simp] theorem deliver_ledonIdx (r : Response) : (s.deliver r).ledonIdx = s.ledonIdx := rfl
@[simp] theorem deliver_acc (r : Response) : (s.deliver r).acc = s.acc := rfl
@[simp] theorem deliver_k (r : Response) : (s.deliver r).k = s.k := rfl
@[simp] theorem deliver_t0 (r : Response) : (s.deliver r).t0 = s.t0 := rfl
@[simp] theorem deliver_iter (r : Response) : (s.deliver r).iter = s.iter := rfl
@[simp] theorem deliver_run (r : Response) : (s.deliver r).run = none := rfl
@[simp] theorem deliver_cfg (r : Response) : (s.deliver r).cfg = s.cfg := rfl
@[simp] theorem deliver_port (r : Response) : (s.deliver r).port = s.port := rfl
@[simp] theorem deliver_trace (r : Response) : (s.deliver r).trace = .resp r :: s.trace := rfl
@[simp] theorem deliver_now (r : Response) : (s.deliver r).now = (s.environ 0).now := rfl
@[simp] theorem deliver_dev (r : Response) : (s.deliver r).dev = (s.environ 0).dev := rfl
@[simp] theorem deliver_led (r : Response) : (s.deliver r).led = s.led := rfl
@[simp] theorem deliver_script (r : Response) : (s.deliver r).script = (s.environ 0).script := rfl
@[simp] theorem deliver_tick (r : Response) : (s.deliver r).tick = (s.environ 0).tick := rfl

/-! ## setCalState: CAL_STATE takes a value and nothing else changes (R20) -/

@[simp] theorem setCalState_calState (c : BitVec 3) : (setCalState c s).calState = c := rfl
@[simp] theorem setCalState_fcause (c : BitVec 3) : (setCalState c s).fcause = s.fcause := rfl
@[simp] theorem setCalState_busy (c : BitVec 3) : (setCalState c s).busy = s.busy := rfl
@[simp] theorem setCalState_zoff (c : BitVec 3) : (setCalState c s).zoff = s.zoff := rfl
@[simp] theorem setCalState_sr (c : BitVec 3) : (setCalState c s).sr = s.sr := rfl
@[simp] theorem setCalState_srv (c : BitVec 3) : (setCalState c s).srv = s.srv := rfl
@[simp] theorem setCalState_ch (c : BitVec 3) : (setCalState c s).ch = s.ch := rfl
@[simp] theorem setCalState_w (c : BitVec 3) : (setCalState c s).w = s.w := rfl
@[simp] theorem setCalState_ledonValid (c : BitVec 3) : (setCalState c s).ledonValid = s.ledonValid := rfl
@[simp] theorem setCalState_ledonIdx (c : BitVec 3) : (setCalState c s).ledonIdx = s.ledonIdx := rfl
@[simp] theorem setCalState_acc (c : BitVec 3) : (setCalState c s).acc = s.acc := rfl
@[simp] theorem setCalState_k (c : BitVec 3) : (setCalState c s).k = s.k := rfl
@[simp] theorem setCalState_t0 (c : BitVec 3) : (setCalState c s).t0 = s.t0 := rfl
@[simp] theorem setCalState_iter (c : BitVec 3) : (setCalState c s).iter = s.iter := rfl
@[simp] theorem setCalState_run (c : BitVec 3) : (setCalState c s).run = s.run := rfl
@[simp] theorem setCalState_cfg (c : BitVec 3) : (setCalState c s).cfg = s.cfg := rfl
@[simp] theorem setCalState_port (c : BitVec 3) : (setCalState c s).port = s.port := rfl
@[simp] theorem setCalState_trace (c : BitVec 3) : (setCalState c s).trace = s.trace := rfl
@[simp] theorem setCalState_now (c : BitVec 3) : (setCalState c s).now = s.now := rfl
@[simp] theorem setCalState_dev (c : BitVec 3) : (setCalState c s).dev = s.dev := rfl
@[simp] theorem setCalState_led (c : BitVec 3) : (setCalState c s).led = s.led := rfl
@[simp] theorem setCalState_script (c : BitVec 3) : (setCalState c s).script = s.script := rfl
@[simp] theorem setCalState_tick (c : BitVec 3) : (setCalState c s).tick = s.tick := rfl

/-! ## memWrite: A bus write is recorded and stores to its one register (R43) -/

@[simp] theorem memWrite_calState (a v : Byte) : ((memWrite a v s).2).calState = s.calState := rfl
@[simp] theorem memWrite_fcause (a v : Byte) : ((memWrite a v s).2).fcause = s.fcause := rfl
@[simp] theorem memWrite_busy (a v : Byte) : ((memWrite a v s).2).busy = s.busy := rfl
@[simp] theorem memWrite_zoff (a v : Byte) : ((memWrite a v s).2).zoff = s.zoff := rfl
@[simp] theorem memWrite_sr (a v : Byte) : ((memWrite a v s).2).sr = s.sr := rfl
@[simp] theorem memWrite_srv (a v : Byte) : ((memWrite a v s).2).srv = s.srv := rfl
@[simp] theorem memWrite_ch (a v : Byte) : ((memWrite a v s).2).ch = s.ch := rfl
@[simp] theorem memWrite_w (a v : Byte) : ((memWrite a v s).2).w = s.w := rfl
@[simp] theorem memWrite_ledonValid (a v : Byte) : ((memWrite a v s).2).ledonValid = s.ledonValid := rfl
@[simp] theorem memWrite_ledonIdx (a v : Byte) : ((memWrite a v s).2).ledonIdx = s.ledonIdx := rfl
@[simp] theorem memWrite_acc (a v : Byte) : ((memWrite a v s).2).acc = s.acc := rfl
@[simp] theorem memWrite_k (a v : Byte) : ((memWrite a v s).2).k = s.k := rfl
@[simp] theorem memWrite_t0 (a v : Byte) : ((memWrite a v s).2).t0 = s.t0 := rfl
@[simp] theorem memWrite_iter (a v : Byte) : ((memWrite a v s).2).iter = s.iter := rfl
@[simp] theorem memWrite_run (a v : Byte) : ((memWrite a v s).2).run = s.run := rfl
@[simp] theorem memWrite_cfg (a v : Byte) : ((memWrite a v s).2).cfg = s.cfg := rfl
@[simp] theorem memWrite_port (a v : Byte) : ((memWrite a v s).2).port = s.port := rfl
@[simp] theorem memWrite_trace (a v : Byte) : ((memWrite a v s).2).trace = .wr s.cfg.devAddr a v s.writeOk :: s.trace := rfl
@[simp] theorem memWrite_now (a v : Byte) : ((memWrite a v s).2).now = (s.environ 0).now := rfl
@[simp] theorem memWrite_dev (a v : Byte) : ((memWrite a v s).2).dev = Memory.write (s.devAfter 1) a (s.writtenByte v) := rfl
@[simp] theorem memWrite_led (a v : Byte) : ((memWrite a v s).2).led = s.led := rfl
@[simp] theorem memWrite_script (a v : Byte) : ((memWrite a v s).2).script = s.script.tail := rfl
@[simp] theorem memWrite_tick (a v : Byte) : ((memWrite a v s).2).tick = s.tick + 1 := rfl

/-! ## ledSet: One LED channel takes a value (R150) -/

@[simp] theorem ledSet_calState (i : BitVec 3) (on : Bool) : (ledSet i on s).calState = s.calState := rfl
@[simp] theorem ledSet_fcause (i : BitVec 3) (on : Bool) : (ledSet i on s).fcause = s.fcause := rfl
@[simp] theorem ledSet_busy (i : BitVec 3) (on : Bool) : (ledSet i on s).busy = s.busy := rfl
@[simp] theorem ledSet_zoff (i : BitVec 3) (on : Bool) : (ledSet i on s).zoff = s.zoff := rfl
@[simp] theorem ledSet_sr (i : BitVec 3) (on : Bool) : (ledSet i on s).sr = s.sr := rfl
@[simp] theorem ledSet_srv (i : BitVec 3) (on : Bool) : (ledSet i on s).srv = s.srv := rfl
@[simp] theorem ledSet_ch (i : BitVec 3) (on : Bool) : (ledSet i on s).ch = s.ch := rfl
@[simp] theorem ledSet_w (i : BitVec 3) (on : Bool) : (ledSet i on s).w = s.w := rfl
@[simp] theorem ledSet_ledonValid (i : BitVec 3) (on : Bool) : (ledSet i on s).ledonValid = s.ledonValid := rfl
@[simp] theorem ledSet_ledonIdx (i : BitVec 3) (on : Bool) : (ledSet i on s).ledonIdx = s.ledonIdx := rfl
@[simp] theorem ledSet_acc (i : BitVec 3) (on : Bool) : (ledSet i on s).acc = s.acc := rfl
@[simp] theorem ledSet_k (i : BitVec 3) (on : Bool) : (ledSet i on s).k = s.k := rfl
@[simp] theorem ledSet_t0 (i : BitVec 3) (on : Bool) : (ledSet i on s).t0 = s.t0 := rfl
@[simp] theorem ledSet_iter (i : BitVec 3) (on : Bool) : (ledSet i on s).iter = s.iter := rfl
@[simp] theorem ledSet_run (i : BitVec 3) (on : Bool) : (ledSet i on s).run = s.run := rfl
@[simp] theorem ledSet_cfg (i : BitVec 3) (on : Bool) : (ledSet i on s).cfg = s.cfg := rfl
@[simp] theorem ledSet_port (i : BitVec 3) (on : Bool) : (ledSet i on s).port = s.port := rfl
@[simp] theorem ledSet_trace (i : BitVec 3) (on : Bool) : (ledSet i on s).trace = .led i on :: s.trace := rfl
@[simp] theorem ledSet_now (i : BitVec 3) (on : Bool) : (ledSet i on s).now = (s.environ 0).now := rfl
@[simp] theorem ledSet_dev (i : BitVec 3) (on : Bool) : (ledSet i on s).dev = s.devAfter 1 := rfl
@[simp] theorem ledSet_led (i : BitVec 3) (on : Bool) : (ledSet i on s).led = setChannel s.led i on := rfl
@[simp] theorem ledSet_script (i : BitVec 3) (on : Bool) : (ledSet i on s).script = s.script.tail := rfl
@[simp] theorem ledSet_tick (i : BitVec 3) (on : Bool) : (ledSet i on s).tick = s.tick + 1 := rfl

/-! ## delay: Time passes (R12) -/

@[simp] theorem delay_calState (k : Word) : (delay k s).calState = s.calState := rfl
@[simp] theorem delay_fcause (k : Word) : (delay k s).fcause = s.fcause := rfl
@[simp] theorem delay_busy (k : Word) : (delay k s).busy = s.busy := rfl
@[simp] theorem delay_zoff (k : Word) : (delay k s).zoff = s.zoff := rfl
@[simp] theorem delay_sr (k : Word) : (delay k s).sr = s.sr := rfl
@[simp] theorem delay_srv (k : Word) : (delay k s).srv = s.srv := rfl
@[simp] theorem delay_ch (k : Word) : (delay k s).ch = s.ch := rfl
@[simp] theorem delay_w (k : Word) : (delay k s).w = s.w := rfl
@[simp] theorem delay_ledonValid (k : Word) : (delay k s).ledonValid = s.ledonValid := rfl
@[simp] theorem delay_ledonIdx (k : Word) : (delay k s).ledonIdx = s.ledonIdx := rfl
@[simp] theorem delay_acc (k : Word) : (delay k s).acc = s.acc := rfl
@[simp] theorem delay_k (k : Word) : (delay k s).k = s.k := rfl
@[simp] theorem delay_t0 (k : Word) : (delay k s).t0 = s.t0 := rfl
@[simp] theorem delay_iter (k : Word) : (delay k s).iter = s.iter := rfl
@[simp] theorem delay_run (k : Word) : (delay k s).run = s.run := rfl
@[simp] theorem delay_cfg (k : Word) : (delay k s).cfg = s.cfg := rfl
@[simp] theorem delay_port (k : Word) : (delay k s).port = s.port := rfl
@[simp] theorem delay_trace (k : Word) : (delay k s).trace = .delay k :: s.trace := rfl
@[simp] theorem delay_now (k : Word) : (delay k s).now = (s.environ k).now := rfl
@[simp] theorem delay_dev (k : Word) : (delay k s).dev = s.devAfter 1 := rfl
@[simp] theorem delay_led (k : Word) : (delay k s).led = s.led := rfl
@[simp] theorem delay_script (k : Word) : (delay k s).script = s.script.tail := rfl
@[simp] theorem delay_tick (k : Word) : (delay k s).tick = s.tick + 1 := rfl

/-! ## readNow: The time is read (R12) -/

@[simp] theorem readNow_calState : (readNow s).calState = s.calState := rfl
@[simp] theorem readNow_fcause : (readNow s).fcause = s.fcause := rfl
@[simp] theorem readNow_busy : (readNow s).busy = s.busy := rfl
@[simp] theorem readNow_zoff : (readNow s).zoff = s.zoff := rfl
@[simp] theorem readNow_sr : (readNow s).sr = s.sr := rfl
@[simp] theorem readNow_srv : (readNow s).srv = s.srv := rfl
@[simp] theorem readNow_ch : (readNow s).ch = s.ch := rfl
@[simp] theorem readNow_w : (readNow s).w = s.w := rfl
@[simp] theorem readNow_ledonValid : (readNow s).ledonValid = s.ledonValid := rfl
@[simp] theorem readNow_ledonIdx : (readNow s).ledonIdx = s.ledonIdx := rfl
@[simp] theorem readNow_acc : (readNow s).acc = s.acc := rfl
@[simp] theorem readNow_k : (readNow s).k = s.k := rfl
@[simp] theorem readNow_t0 : (readNow s).t0 = s.t0 := rfl
@[simp] theorem readNow_iter : (readNow s).iter = s.iter := rfl
@[simp] theorem readNow_run : (readNow s).run = s.run := rfl
@[simp] theorem readNow_cfg : (readNow s).cfg = s.cfg := rfl
@[simp] theorem readNow_port : (readNow s).port = s.port := rfl
@[simp] theorem readNow_trace : (readNow s).trace = .now (s.environ 0).now :: s.trace := rfl
@[simp] theorem readNow_now : (readNow s).now = (s.environ 0).now := rfl
@[simp] theorem readNow_dev : (readNow s).dev = s.devAfter 1 := rfl
@[simp] theorem readNow_led : (readNow s).led = s.led := rfl
@[simp] theorem readNow_script : (readNow s).script = s.script.tail := rfl
@[simp] theorem readNow_tick : (readNow s).tick = s.tick + 1 := rfl

/-! ## uninitialize: BEGIN's first action (R118) -/

@[simp] theorem uninitialize_calState : s.uninitialize.calState = calUninitialized := rfl
@[simp] theorem uninitialize_fcause : s.uninitialize.fcause = 0x00 := rfl
@[simp] theorem uninitialize_busy : s.uninitialize.busy = s.busy := rfl
@[simp] theorem uninitialize_zoff : s.uninitialize.zoff = s.zoff := rfl
@[simp] theorem uninitialize_sr : s.uninitialize.sr = s.sr := rfl
@[simp] theorem uninitialize_srv : s.uninitialize.srv = s.srv := rfl
@[simp] theorem uninitialize_ch : s.uninitialize.ch = s.ch := rfl
@[simp] theorem uninitialize_w : s.uninitialize.w = s.w := rfl
@[simp] theorem uninitialize_ledonValid : s.uninitialize.ledonValid = s.ledonValid := rfl
@[simp] theorem uninitialize_ledonIdx : s.uninitialize.ledonIdx = s.ledonIdx := rfl
@[simp] theorem uninitialize_acc : s.uninitialize.acc = s.acc := rfl
@[simp] theorem uninitialize_k : s.uninitialize.k = s.k := rfl
@[simp] theorem uninitialize_t0 : s.uninitialize.t0 = s.t0 := rfl
@[simp] theorem uninitialize_iter : s.uninitialize.iter = s.iter := rfl
@[simp] theorem uninitialize_run : s.uninitialize.run = s.run := rfl
@[simp] theorem uninitialize_cfg : s.uninitialize.cfg = s.cfg := rfl
@[simp] theorem uninitialize_port : s.uninitialize.port = s.port := rfl
@[simp] theorem uninitialize_trace : s.uninitialize.trace = s.trace := rfl
@[simp] theorem uninitialize_now : s.uninitialize.now = s.now := rfl
@[simp] theorem uninitialize_dev : s.uninitialize.dev = s.dev := rfl
@[simp] theorem uninitialize_led : s.uninitialize.led = s.led := rfl
@[simp] theorem uninitialize_script : s.uninitialize.script = s.script := rfl
@[simp] theorem uninitialize_tick : s.uninitialize.tick = s.tick := rfl

/-! ## faulted: BEGIN's failure action (R118) -/

@[simp] theorem faulted_calState (c : Cause) : (s.faulted c).calState = calFaulted := rfl
@[simp] theorem faulted_fcause (c : Cause) : (s.faulted c).fcause = c.code := rfl
@[simp] theorem faulted_busy (c : Cause) : (s.faulted c).busy = s.busy := rfl
@[simp] theorem faulted_zoff (c : Cause) : (s.faulted c).zoff = s.zoff := rfl
@[simp] theorem faulted_sr (c : Cause) : (s.faulted c).sr = s.sr := rfl
@[simp] theorem faulted_srv (c : Cause) : (s.faulted c).srv = s.srv := rfl
@[simp] theorem faulted_ch (c : Cause) : (s.faulted c).ch = s.ch := rfl
@[simp] theorem faulted_w (c : Cause) : (s.faulted c).w = s.w := rfl
@[simp] theorem faulted_ledonValid (c : Cause) : (s.faulted c).ledonValid = s.ledonValid := rfl
@[simp] theorem faulted_ledonIdx (c : Cause) : (s.faulted c).ledonIdx = s.ledonIdx := rfl
@[simp] theorem faulted_acc (c : Cause) : (s.faulted c).acc = s.acc := rfl
@[simp] theorem faulted_k (c : Cause) : (s.faulted c).k = s.k := rfl
@[simp] theorem faulted_t0 (c : Cause) : (s.faulted c).t0 = s.t0 := rfl
@[simp] theorem faulted_iter (c : Cause) : (s.faulted c).iter = s.iter := rfl
@[simp] theorem faulted_run (c : Cause) : (s.faulted c).run = s.run := rfl
@[simp] theorem faulted_cfg (c : Cause) : (s.faulted c).cfg = s.cfg := rfl
@[simp] theorem faulted_port (c : Cause) : (s.faulted c).port = s.port := rfl
@[simp] theorem faulted_trace (c : Cause) : (s.faulted c).trace = s.trace := rfl
@[simp] theorem faulted_now (c : Cause) : (s.faulted c).now = s.now := rfl
@[simp] theorem faulted_dev (c : Cause) : (s.faulted c).dev = s.dev := rfl
@[simp] theorem faulted_led (c : Cause) : (s.faulted c).led = s.led := rfl
@[simp] theorem faulted_script (c : Cause) : (s.faulted c).script = s.script := rfl
@[simp] theorem faulted_tick (c : Cause) : (s.faulted c).tick = s.tick := rfl

/-! ## stamp: T0 is taken (R114, R139) -/

@[simp] theorem stamp_calState : s.stamp.calState = s.calState := rfl
@[simp] theorem stamp_fcause : s.stamp.fcause = s.fcause := rfl
@[simp] theorem stamp_busy : s.stamp.busy = s.busy := rfl
@[simp] theorem stamp_zoff : s.stamp.zoff = s.zoff := rfl
@[simp] theorem stamp_sr : s.stamp.sr = s.sr := rfl
@[simp] theorem stamp_srv : s.stamp.srv = s.srv := rfl
@[simp] theorem stamp_ch : s.stamp.ch = s.ch := rfl
@[simp] theorem stamp_w : s.stamp.w = s.w := rfl
@[simp] theorem stamp_ledonValid : s.stamp.ledonValid = s.ledonValid := rfl
@[simp] theorem stamp_ledonIdx : s.stamp.ledonIdx = s.ledonIdx := rfl
@[simp] theorem stamp_acc : s.stamp.acc = s.acc := rfl
@[simp] theorem stamp_k : s.stamp.k = s.k := rfl
@[simp] theorem stamp_t0 : s.stamp.t0 = s.now := rfl
@[simp] theorem stamp_iter : s.stamp.iter = s.iter := rfl
@[simp] theorem stamp_run : s.stamp.run = s.run := rfl
@[simp] theorem stamp_cfg : s.stamp.cfg = s.cfg := rfl
@[simp] theorem stamp_port : s.stamp.port = s.port := rfl
@[simp] theorem stamp_trace : s.stamp.trace = s.trace := rfl
@[simp] theorem stamp_now : s.stamp.now = s.now := rfl
@[simp] theorem stamp_dev : s.stamp.dev = s.dev := rfl
@[simp] theorem stamp_led : s.stamp.led = s.led := rfl
@[simp] theorem stamp_script : s.stamp.script = s.script := rfl
@[simp] theorem stamp_tick : s.stamp.tick = s.tick := rfl

/-! ## clearSum: ACC and K become 0 (R139) -/

@[simp] theorem clearSum_calState : s.clearSum.calState = s.calState := rfl
@[simp] theorem clearSum_fcause : s.clearSum.fcause = s.fcause := rfl
@[simp] theorem clearSum_busy : s.clearSum.busy = s.busy := rfl
@[simp] theorem clearSum_zoff : s.clearSum.zoff = s.zoff := rfl
@[simp] theorem clearSum_sr : s.clearSum.sr = s.sr := rfl
@[simp] theorem clearSum_srv : s.clearSum.srv = s.srv := rfl
@[simp] theorem clearSum_ch : s.clearSum.ch = s.ch := rfl
@[simp] theorem clearSum_w : s.clearSum.w = s.w := rfl
@[simp] theorem clearSum_ledonValid : s.clearSum.ledonValid = s.ledonValid := rfl
@[simp] theorem clearSum_ledonIdx : s.clearSum.ledonIdx = s.ledonIdx := rfl
@[simp] theorem clearSum_acc : s.clearSum.acc = 0 := rfl
@[simp] theorem clearSum_k : s.clearSum.k = 0 := rfl
@[simp] theorem clearSum_t0 : s.clearSum.t0 = s.t0 := rfl
@[simp] theorem clearSum_iter : s.clearSum.iter = s.iter := rfl
@[simp] theorem clearSum_run : s.clearSum.run = s.run := rfl
@[simp] theorem clearSum_cfg : s.clearSum.cfg = s.cfg := rfl
@[simp] theorem clearSum_port : s.clearSum.port = s.port := rfl
@[simp] theorem clearSum_trace : s.clearSum.trace = s.trace := rfl
@[simp] theorem clearSum_now : s.clearSum.now = s.now := rfl
@[simp] theorem clearSum_dev : s.clearSum.dev = s.dev := rfl
@[simp] theorem clearSum_led : s.clearSum.led = s.led := rfl
@[simp] theorem clearSum_script : s.clearSum.script = s.script := rfl
@[simp] theorem clearSum_tick : s.clearSum.tick = s.tick := rfl

/-! ## addSample: A sample is added (R139) -/

@[simp] theorem addSample_calState (v : Word) : (s.addSample v).calState = s.calState := rfl
@[simp] theorem addSample_fcause (v : Word) : (s.addSample v).fcause = s.fcause := rfl
@[simp] theorem addSample_busy (v : Word) : (s.addSample v).busy = s.busy := rfl
@[simp] theorem addSample_zoff (v : Word) : (s.addSample v).zoff = s.zoff := rfl
@[simp] theorem addSample_sr (v : Word) : (s.addSample v).sr = s.sr := rfl
@[simp] theorem addSample_srv (v : Word) : (s.addSample v).srv = s.srv := rfl
@[simp] theorem addSample_ch (v : Word) : (s.addSample v).ch = s.ch := rfl
@[simp] theorem addSample_w (v : Word) : (s.addSample v).w = s.w := rfl
@[simp] theorem addSample_ledonValid (v : Word) : (s.addSample v).ledonValid = s.ledonValid := rfl
@[simp] theorem addSample_ledonIdx (v : Word) : (s.addSample v).ledonIdx = s.ledonIdx := rfl
@[simp] theorem addSample_acc (v : Word) : (s.addSample v).acc = accumulate s.acc v := rfl
@[simp] theorem addSample_k (v : Word) : (s.addSample v).k = s.k + 1 := rfl
@[simp] theorem addSample_t0 (v : Word) : (s.addSample v).t0 = s.t0 := rfl
@[simp] theorem addSample_iter (v : Word) : (s.addSample v).iter = s.iter := rfl
@[simp] theorem addSample_run (v : Word) : (s.addSample v).run = s.run := rfl
@[simp] theorem addSample_cfg (v : Word) : (s.addSample v).cfg = s.cfg := rfl
@[simp] theorem addSample_port (v : Word) : (s.addSample v).port = s.port := rfl
@[simp] theorem addSample_trace (v : Word) : (s.addSample v).trace = s.trace := rfl
@[simp] theorem addSample_now (v : Word) : (s.addSample v).now = s.now := rfl
@[simp] theorem addSample_dev (v : Word) : (s.addSample v).dev = s.dev := rfl
@[simp] theorem addSample_led (v : Word) : (s.addSample v).led = s.led := rfl
@[simp] theorem addSample_script (v : Word) : (s.addSample v).script = s.script := rfl
@[simp] theorem addSample_tick (v : Word) : (s.addSample v).tick = s.tick := rfl

/-! ## clearPolls: ITER becomes 0 (R112) -/

@[simp] theorem clearPolls_calState : s.clearPolls.calState = s.calState := rfl
@[simp] theorem clearPolls_fcause : s.clearPolls.fcause = s.fcause := rfl
@[simp] theorem clearPolls_busy : s.clearPolls.busy = s.busy := rfl
@[simp] theorem clearPolls_zoff : s.clearPolls.zoff = s.zoff := rfl
@[simp] theorem clearPolls_sr : s.clearPolls.sr = s.sr := rfl
@[simp] theorem clearPolls_srv : s.clearPolls.srv = s.srv := rfl
@[simp] theorem clearPolls_ch : s.clearPolls.ch = s.ch := rfl
@[simp] theorem clearPolls_w : s.clearPolls.w = s.w := rfl
@[simp] theorem clearPolls_ledonValid : s.clearPolls.ledonValid = s.ledonValid := rfl
@[simp] theorem clearPolls_ledonIdx : s.clearPolls.ledonIdx = s.ledonIdx := rfl
@[simp] theorem clearPolls_acc : s.clearPolls.acc = s.acc := rfl
@[simp] theorem clearPolls_k : s.clearPolls.k = s.k := rfl
@[simp] theorem clearPolls_t0 : s.clearPolls.t0 = s.t0 := rfl
@[simp] theorem clearPolls_iter : s.clearPolls.iter = 0 := rfl
@[simp] theorem clearPolls_run : s.clearPolls.run = s.run := rfl
@[simp] theorem clearPolls_cfg : s.clearPolls.cfg = s.cfg := rfl
@[simp] theorem clearPolls_port : s.clearPolls.port = s.port := rfl
@[simp] theorem clearPolls_trace : s.clearPolls.trace = s.trace := rfl
@[simp] theorem clearPolls_now : s.clearPolls.now = s.now := rfl
@[simp] theorem clearPolls_dev : s.clearPolls.dev = s.dev := rfl
@[simp] theorem clearPolls_led : s.clearPolls.led = s.led := rfl
@[simp] theorem clearPolls_script : s.clearPolls.script = s.script := rfl
@[simp] theorem clearPolls_tick : s.clearPolls.tick = s.tick := rfl

/-! ## countPoll: A poll is counted (R112) -/

@[simp] theorem countPoll_calState : s.countPoll.calState = s.calState := rfl
@[simp] theorem countPoll_fcause : s.countPoll.fcause = s.fcause := rfl
@[simp] theorem countPoll_busy : s.countPoll.busy = s.busy := rfl
@[simp] theorem countPoll_zoff : s.countPoll.zoff = s.zoff := rfl
@[simp] theorem countPoll_sr : s.countPoll.sr = s.sr := rfl
@[simp] theorem countPoll_srv : s.countPoll.srv = s.srv := rfl
@[simp] theorem countPoll_ch : s.countPoll.ch = s.ch := rfl
@[simp] theorem countPoll_w : s.countPoll.w = s.w := rfl
@[simp] theorem countPoll_ledonValid : s.countPoll.ledonValid = s.ledonValid := rfl
@[simp] theorem countPoll_ledonIdx : s.countPoll.ledonIdx = s.ledonIdx := rfl
@[simp] theorem countPoll_acc : s.countPoll.acc = s.acc := rfl
@[simp] theorem countPoll_k : s.countPoll.k = s.k := rfl
@[simp] theorem countPoll_t0 : s.countPoll.t0 = s.t0 := rfl
@[simp] theorem countPoll_iter : s.countPoll.iter = s.iter + 1 := rfl
@[simp] theorem countPoll_run : s.countPoll.run = s.run := rfl
@[simp] theorem countPoll_cfg : s.countPoll.cfg = s.cfg := rfl
@[simp] theorem countPoll_port : s.countPoll.port = s.port := rfl
@[simp] theorem countPoll_trace : s.countPoll.trace = s.trace := rfl
@[simp] theorem countPoll_now : s.countPoll.now = s.now := rfl
@[simp] theorem countPoll_dev : s.countPoll.dev = s.dev := rfl
@[simp] theorem countPoll_led : s.countPoll.led = s.led := rfl
@[simp] theorem countPoll_script : s.countPoll.script = s.script := rfl
@[simp] theorem countPoll_tick : s.countPoll.tick = s.tick := rfl

/-! ## setZoff: ZOFF takes a value (R25) -/

@[simp] theorem setZoff_calState (v : Word) : (s.setZoff v).calState = s.calState := rfl
@[simp] theorem setZoff_fcause (v : Word) : (s.setZoff v).fcause = s.fcause := rfl
@[simp] theorem setZoff_busy (v : Word) : (s.setZoff v).busy = s.busy := rfl
@[simp] theorem setZoff_zoff (v : Word) : (s.setZoff v).zoff = v := rfl
@[simp] theorem setZoff_sr (v : Word) : (s.setZoff v).sr = s.sr := rfl
@[simp] theorem setZoff_srv (v : Word) : (s.setZoff v).srv = s.srv := rfl
@[simp] theorem setZoff_ch (v : Word) : (s.setZoff v).ch = s.ch := rfl
@[simp] theorem setZoff_w (v : Word) : (s.setZoff v).w = s.w := rfl
@[simp] theorem setZoff_ledonValid (v : Word) : (s.setZoff v).ledonValid = s.ledonValid := rfl
@[simp] theorem setZoff_ledonIdx (v : Word) : (s.setZoff v).ledonIdx = s.ledonIdx := rfl
@[simp] theorem setZoff_acc (v : Word) : (s.setZoff v).acc = s.acc := rfl
@[simp] theorem setZoff_k (v : Word) : (s.setZoff v).k = s.k := rfl
@[simp] theorem setZoff_t0 (v : Word) : (s.setZoff v).t0 = s.t0 := rfl
@[simp] theorem setZoff_iter (v : Word) : (s.setZoff v).iter = s.iter := rfl
@[simp] theorem setZoff_run (v : Word) : (s.setZoff v).run = s.run := rfl
@[simp] theorem setZoff_cfg (v : Word) : (s.setZoff v).cfg = s.cfg := rfl
@[simp] theorem setZoff_port (v : Word) : (s.setZoff v).port = s.port := rfl
@[simp] theorem setZoff_trace (v : Word) : (s.setZoff v).trace = s.trace := rfl
@[simp] theorem setZoff_now (v : Word) : (s.setZoff v).now = s.now := rfl
@[simp] theorem setZoff_dev (v : Word) : (s.setZoff v).dev = s.dev := rfl
@[simp] theorem setZoff_led (v : Word) : (s.setZoff v).led = s.led := rfl
@[simp] theorem setZoff_script (v : Word) : (s.setZoff v).script = s.script := rfl
@[simp] theorem setZoff_tick (v : Word) : (s.setZoff v).tick = s.tick := rfl

/-! ## startScan: SCAN's first action (R152) -/

@[simp] theorem startScan_calState : s.startScan.calState = s.calState := rfl
@[simp] theorem startScan_fcause : s.startScan.fcause = s.fcause := rfl
@[simp] theorem startScan_busy : s.startScan.busy = s.busy := rfl
@[simp] theorem startScan_zoff : s.startScan.zoff = s.zoff := rfl
@[simp] theorem startScan_sr : s.startScan.sr = s.sr := rfl
@[simp] theorem startScan_srv : s.startScan.srv = s.srv := rfl
@[simp] theorem startScan_ch : s.startScan.ch = 0 := rfl
@[simp] theorem startScan_w : s.startScan.w = s.w := rfl
@[simp] theorem startScan_ledonValid : s.startScan.ledonValid = false := rfl
@[simp] theorem startScan_ledonIdx : s.startScan.ledonIdx = s.ledonIdx := rfl
@[simp] theorem startScan_acc : s.startScan.acc = s.acc := rfl
@[simp] theorem startScan_k : s.startScan.k = s.k := rfl
@[simp] theorem startScan_t0 : s.startScan.t0 = s.t0 := rfl
@[simp] theorem startScan_iter : s.startScan.iter = s.iter := rfl
@[simp] theorem startScan_run : s.startScan.run = s.run := rfl
@[simp] theorem startScan_cfg : s.startScan.cfg = s.cfg := rfl
@[simp] theorem startScan_port : s.startScan.port = s.port := rfl
@[simp] theorem startScan_trace : s.startScan.trace = s.trace := rfl
@[simp] theorem startScan_now : s.startScan.now = s.now := rfl
@[simp] theorem startScan_dev : s.startScan.dev = s.dev := rfl
@[simp] theorem startScan_led : s.startScan.led = s.led := rfl
@[simp] theorem startScan_script : s.startScan.script = s.script := rfl
@[simp] theorem startScan_tick : s.startScan.tick = s.tick := rfl

/-! ## lit: LEDON names a channel (R152) -/

@[simp] theorem lit_calState (i : BitVec 3) : (s.lit i).calState = s.calState := rfl
@[simp] theorem lit_fcause (i : BitVec 3) : (s.lit i).fcause = s.fcause := rfl
@[simp] theorem lit_busy (i : BitVec 3) : (s.lit i).busy = s.busy := rfl
@[simp] theorem lit_zoff (i : BitVec 3) : (s.lit i).zoff = s.zoff := rfl
@[simp] theorem lit_sr (i : BitVec 3) : (s.lit i).sr = s.sr := rfl
@[simp] theorem lit_srv (i : BitVec 3) : (s.lit i).srv = s.srv := rfl
@[simp] theorem lit_ch (i : BitVec 3) : (s.lit i).ch = s.ch := rfl
@[simp] theorem lit_w (i : BitVec 3) : (s.lit i).w = s.w := rfl
@[simp] theorem lit_ledonValid (i : BitVec 3) : (s.lit i).ledonValid = true := rfl
@[simp] theorem lit_ledonIdx (i : BitVec 3) : (s.lit i).ledonIdx = i := rfl
@[simp] theorem lit_acc (i : BitVec 3) : (s.lit i).acc = s.acc := rfl
@[simp] theorem lit_k (i : BitVec 3) : (s.lit i).k = s.k := rfl
@[simp] theorem lit_t0 (i : BitVec 3) : (s.lit i).t0 = s.t0 := rfl
@[simp] theorem lit_iter (i : BitVec 3) : (s.lit i).iter = s.iter := rfl
@[simp] theorem lit_run (i : BitVec 3) : (s.lit i).run = s.run := rfl
@[simp] theorem lit_cfg (i : BitVec 3) : (s.lit i).cfg = s.cfg := rfl
@[simp] theorem lit_port (i : BitVec 3) : (s.lit i).port = s.port := rfl
@[simp] theorem lit_trace (i : BitVec 3) : (s.lit i).trace = s.trace := rfl
@[simp] theorem lit_now (i : BitVec 3) : (s.lit i).now = s.now := rfl
@[simp] theorem lit_dev (i : BitVec 3) : (s.lit i).dev = s.dev := rfl
@[simp] theorem lit_led (i : BitVec 3) : (s.lit i).led = s.led := rfl
@[simp] theorem lit_script (i : BitVec 3) : (s.lit i).script = s.script := rfl
@[simp] theorem lit_tick (i : BitVec 3) : (s.lit i).tick = s.tick := rfl

/-! ## unlit: LEDON becomes invalid (R152) -/

@[simp] theorem unlit_calState : s.unlit.calState = s.calState := rfl
@[simp] theorem unlit_fcause : s.unlit.fcause = s.fcause := rfl
@[simp] theorem unlit_busy : s.unlit.busy = s.busy := rfl
@[simp] theorem unlit_zoff : s.unlit.zoff = s.zoff := rfl
@[simp] theorem unlit_sr : s.unlit.sr = s.sr := rfl
@[simp] theorem unlit_srv : s.unlit.srv = s.srv := rfl
@[simp] theorem unlit_ch : s.unlit.ch = s.ch := rfl
@[simp] theorem unlit_w : s.unlit.w = s.w := rfl
@[simp] theorem unlit_ledonValid : s.unlit.ledonValid = false := rfl
@[simp] theorem unlit_ledonIdx : s.unlit.ledonIdx = s.ledonIdx := rfl
@[simp] theorem unlit_acc : s.unlit.acc = s.acc := rfl
@[simp] theorem unlit_k : s.unlit.k = s.k := rfl
@[simp] theorem unlit_t0 : s.unlit.t0 = s.t0 := rfl
@[simp] theorem unlit_iter : s.unlit.iter = s.iter := rfl
@[simp] theorem unlit_run : s.unlit.run = s.run := rfl
@[simp] theorem unlit_cfg : s.unlit.cfg = s.cfg := rfl
@[simp] theorem unlit_port : s.unlit.port = s.port := rfl
@[simp] theorem unlit_trace : s.unlit.trace = s.trace := rfl
@[simp] theorem unlit_now : s.unlit.now = s.now := rfl
@[simp] theorem unlit_dev : s.unlit.dev = s.dev := rfl
@[simp] theorem unlit_led : s.unlit.led = s.led := rfl
@[simp] theorem unlit_script : s.unlit.script = s.script := rfl
@[simp] theorem unlit_tick : s.unlit.tick = s.tick := rfl

/-! ## gather: W takes a value (R152) -/

@[simp] theorem gather_calState (v : Word) : (s.gather v).calState = s.calState := rfl
@[simp] theorem gather_fcause (v : Word) : (s.gather v).fcause = s.fcause := rfl
@[simp] theorem gather_busy (v : Word) : (s.gather v).busy = s.busy := rfl
@[simp] theorem gather_zoff (v : Word) : (s.gather v).zoff = s.zoff := rfl
@[simp] theorem gather_sr (v : Word) : (s.gather v).sr = s.sr := rfl
@[simp] theorem gather_srv (v : Word) : (s.gather v).srv = s.srv := rfl
@[simp] theorem gather_ch (v : Word) : (s.gather v).ch = s.ch := rfl
@[simp] theorem gather_w (v : Word) : (s.gather v).w = setResult s.w (channelOf s.ch) v := rfl
@[simp] theorem gather_ledonValid (v : Word) : (s.gather v).ledonValid = s.ledonValid := rfl
@[simp] theorem gather_ledonIdx (v : Word) : (s.gather v).ledonIdx = s.ledonIdx := rfl
@[simp] theorem gather_acc (v : Word) : (s.gather v).acc = s.acc := rfl
@[simp] theorem gather_k (v : Word) : (s.gather v).k = s.k := rfl
@[simp] theorem gather_t0 (v : Word) : (s.gather v).t0 = s.t0 := rfl
@[simp] theorem gather_iter (v : Word) : (s.gather v).iter = s.iter := rfl
@[simp] theorem gather_run (v : Word) : (s.gather v).run = s.run := rfl
@[simp] theorem gather_cfg (v : Word) : (s.gather v).cfg = s.cfg := rfl
@[simp] theorem gather_port (v : Word) : (s.gather v).port = s.port := rfl
@[simp] theorem gather_trace (v : Word) : (s.gather v).trace = s.trace := rfl
@[simp] theorem gather_now (v : Word) : (s.gather v).now = s.now := rfl
@[simp] theorem gather_dev (v : Word) : (s.gather v).dev = s.dev := rfl
@[simp] theorem gather_led (v : Word) : (s.gather v).led = s.led := rfl
@[simp] theorem gather_script (v : Word) : (s.gather v).script = s.script := rfl
@[simp] theorem gather_tick (v : Word) : (s.gather v).tick = s.tick := rfl

/-! ## nextChannel: The next channel (R152) -/

@[simp] theorem nextChannel_calState : s.nextChannel.calState = s.calState := rfl
@[simp] theorem nextChannel_fcause : s.nextChannel.fcause = s.fcause := rfl
@[simp] theorem nextChannel_busy : s.nextChannel.busy = s.busy := rfl
@[simp] theorem nextChannel_zoff : s.nextChannel.zoff = s.zoff := rfl
@[simp] theorem nextChannel_sr : s.nextChannel.sr = s.sr := rfl
@[simp] theorem nextChannel_srv : s.nextChannel.srv = s.srv := rfl
@[simp] theorem nextChannel_ch : s.nextChannel.ch = s.ch + 1 := rfl
@[simp] theorem nextChannel_w : s.nextChannel.w = s.w := rfl
@[simp] theorem nextChannel_ledonValid : s.nextChannel.ledonValid = s.ledonValid := rfl
@[simp] theorem nextChannel_ledonIdx : s.nextChannel.ledonIdx = s.ledonIdx := rfl
@[simp] theorem nextChannel_acc : s.nextChannel.acc = s.acc := rfl
@[simp] theorem nextChannel_k : s.nextChannel.k = s.k := rfl
@[simp] theorem nextChannel_t0 : s.nextChannel.t0 = s.t0 := rfl
@[simp] theorem nextChannel_iter : s.nextChannel.iter = s.iter := rfl
@[simp] theorem nextChannel_run : s.nextChannel.run = s.run := rfl
@[simp] theorem nextChannel_cfg : s.nextChannel.cfg = s.cfg := rfl
@[simp] theorem nextChannel_port : s.nextChannel.port = s.port := rfl
@[simp] theorem nextChannel_trace : s.nextChannel.trace = s.trace := rfl
@[simp] theorem nextChannel_now : s.nextChannel.now = s.now := rfl
@[simp] theorem nextChannel_dev : s.nextChannel.dev = s.dev := rfl
@[simp] theorem nextChannel_led : s.nextChannel.led = s.led := rfl
@[simp] theorem nextChannel_script : s.nextChannel.script = s.script := rfl
@[simp] theorem nextChannel_tick : s.nextChannel.tick = s.tick := rfl

/-! ## commit: The results are committed (R152) -/

@[simp] theorem commit_calState : s.commit.calState = s.calState := rfl
@[simp] theorem commit_fcause : s.commit.fcause = s.fcause := rfl
@[simp] theorem commit_busy : s.commit.busy = s.busy := rfl
@[simp] theorem commit_zoff : s.commit.zoff = s.zoff := rfl
@[simp] theorem commit_sr : s.commit.sr = committed s.cfg.nch s.w s.sr := rfl
@[simp] theorem commit_srv : s.commit.srv = true := rfl
@[simp] theorem commit_ch : s.commit.ch = s.cfg.nch := rfl
@[simp] theorem commit_w : s.commit.w = s.w := rfl
@[simp] theorem commit_ledonValid : s.commit.ledonValid = s.ledonValid := rfl
@[simp] theorem commit_ledonIdx : s.commit.ledonIdx = s.ledonIdx := rfl
@[simp] theorem commit_acc : s.commit.acc = s.acc := rfl
@[simp] theorem commit_k : s.commit.k = s.k := rfl
@[simp] theorem commit_t0 : s.commit.t0 = s.t0 := rfl
@[simp] theorem commit_iter : s.commit.iter = s.iter := rfl
@[simp] theorem commit_run : s.commit.run = s.run := rfl
@[simp] theorem commit_cfg : s.commit.cfg = s.cfg := rfl
@[simp] theorem commit_port : s.commit.port = s.port := rfl
@[simp] theorem commit_trace : s.commit.trace = s.trace := rfl
@[simp] theorem commit_now : s.commit.now = s.now := rfl
@[simp] theorem commit_dev : s.commit.dev = s.dev := rfl
@[simp] theorem commit_led : s.commit.led = s.led := rfl
@[simp] theorem commit_script : s.commit.script = s.script := rfl
@[simp] theorem commit_tick : s.commit.tick = s.tick := rfl

/-! ## withPort: A word leaves the port (R22) -/

@[simp] theorem withPort_calState (rest : List Word) : (s.withPort rest).calState = s.calState := rfl
@[simp] theorem withPort_fcause (rest : List Word) : (s.withPort rest).fcause = s.fcause := rfl
@[simp] theorem withPort_busy (rest : List Word) : (s.withPort rest).busy = s.busy := rfl
@[simp] theorem withPort_zoff (rest : List Word) : (s.withPort rest).zoff = s.zoff := rfl
@[simp] theorem withPort_sr (rest : List Word) : (s.withPort rest).sr = s.sr := rfl
@[simp] theorem withPort_srv (rest : List Word) : (s.withPort rest).srv = s.srv := rfl
@[simp] theorem withPort_ch (rest : List Word) : (s.withPort rest).ch = s.ch := rfl
@[simp] theorem withPort_w (rest : List Word) : (s.withPort rest).w = s.w := rfl
@[simp] theorem withPort_ledonValid (rest : List Word) : (s.withPort rest).ledonValid = s.ledonValid := rfl
@[simp] theorem withPort_ledonIdx (rest : List Word) : (s.withPort rest).ledonIdx = s.ledonIdx := rfl
@[simp] theorem withPort_acc (rest : List Word) : (s.withPort rest).acc = s.acc := rfl
@[simp] theorem withPort_k (rest : List Word) : (s.withPort rest).k = s.k := rfl
@[simp] theorem withPort_t0 (rest : List Word) : (s.withPort rest).t0 = s.t0 := rfl
@[simp] theorem withPort_iter (rest : List Word) : (s.withPort rest).iter = s.iter := rfl
@[simp] theorem withPort_run (rest : List Word) : (s.withPort rest).run = s.run := rfl
@[simp] theorem withPort_cfg (rest : List Word) : (s.withPort rest).cfg = s.cfg := rfl
@[simp] theorem withPort_port (rest : List Word) : (s.withPort rest).port = rest := rfl
@[simp] theorem withPort_trace (rest : List Word) : (s.withPort rest).trace = s.trace := rfl
@[simp] theorem withPort_now (rest : List Word) : (s.withPort rest).now = s.now := rfl
@[simp] theorem withPort_dev (rest : List Word) : (s.withPort rest).dev = s.dev := rfl
@[simp] theorem withPort_led (rest : List Word) : (s.withPort rest).led = s.led := rfl
@[simp] theorem withPort_script (rest : List Word) : (s.withPort rest).script = s.script := rfl
@[simp] theorem withPort_tick (rest : List Word) : (s.withPort rest).tick = s.tick := rfl

end Sys2Proof.Machine
end

