-- ==== Sys2Proof/Laws/Ops.lean ====
section
/-! SUPPORT. What each shared operation can do, said once: the coming moves after an update, the interactions, the
read-modify-write, failure, and the frame of a meaning. -/

namespace Sys2Proof.Machine

/-! ## The coming moves -/

theorem moveAt_congr (s t : State) (hs : t.script = s.script) (ht : t.tick = s.tick) (j : Nat) :
    t.moveAt j = s.moveAt j := by simp [State.moveAt, hs, ht]

/-- After a move is used, the coming ones stand one place nearer. -/
@[simp] theorem moveAt_environ (s : State) (least : Word) (j : Nat) : (s.environ least).moveAt j = s.moveAt (j + 1) := by
  unfold State.moveAt
  simp only [environ_script, environ_tick, List.getElem?_tail]
  cases s.script[j + 1]? with
  | some m => rfl
  | none => simp only [Nat.add_assoc, Nat.add_comm 1 j]

@[simp] theorem moveAt_log (s : State) (e : Event) (j : Nat) : (s.log e).moveAt j = s.moveAt j := rfl
@[simp] theorem moveAt_goto (s : State) (r : Running) (j : Nat) : (s.goto r).moveAt j = s.moveAt j := rfl
@[simp] theorem moveAt_accept (s : State) (cw : Word) (j : Nat) : (s.accept cw).moveAt j = s.moveAt j := rfl
@[simp] theorem moveAt_answer (s : State) (i : Instr) (v : Word) (j : Nat) : (s.answer i v).moveAt j = s.moveAt j := rfl
@[simp] theorem moveAt_setCalState (s : State) (c : BitVec 3) (j : Nat) : (setCalState c s).moveAt j = s.moveAt j := rfl

theorem nextMove_eq (s : State) : s.nextMove = s.moveAt 0 := rfl

theorem devAfter_congr (s t : State) (hd : t.dev = s.dev) (hm : ∀ j, t.moveAt j = s.moveAt j) (j : Nat) :
    t.devAfter j = s.devAfter j := by
  induction j with
  | zero => exact hd
  | succ j ih => simp [State.devAfter, ih, hm]

@[simp] theorem devAfter_environ (s : State) (least : Word) (j : Nat) :
    (s.environ least).devAfter j = s.devAfter (j + 1) := by
  induction j with
  | zero => rfl
  | succ j ih => simp only [State.devAfter, ih, moveAt_environ]

/-- What a state's coming moves bring depends only on what the moves read. -/
theorem byteAt_congr (s t : State) (hd : t.dev = s.dev) (hm : ∀ j, t.moveAt j = s.moveAt j) (j : Nat) (a : Byte) :
    t.byteAt j a = s.byteAt j a := by simp [State.byteAt, devAfter_congr s t hd hm]

@[simp] theorem byteAt_environ (s : State) (least : Word) (j : Nat) (a : Byte) :
    (s.environ least).byteAt j a = s.byteAt (j + 1) a := by simp [State.byteAt]

@[simp] theorem devAfter_log (s : State) (e : Event) (j : Nat) : (s.log e).devAfter j = s.devAfter j :=
  devAfter_congr s (s.log e) rfl (fun _ => rfl) j
@[simp] theorem byteAt_log (s : State) (e : Event) (j : Nat) (b : Byte) : (s.log e).byteAt j b = s.byteAt j b :=
  byteAt_congr s (s.log e) rfl (fun _ => rfl) j b
@[simp] theorem devAfter_goto (s : State) (r : Running) (j : Nat) : (s.goto r).devAfter j = s.devAfter j :=
  devAfter_congr s (s.goto r) rfl (fun _ => rfl) j
@[simp] theorem byteAt_goto (s : State) (r : Running) (j : Nat) (b : Byte) : (s.goto r).byteAt j b = s.byteAt j b :=
  byteAt_congr s (s.goto r) rfl (fun _ => rfl) j b
@[simp] theorem devAfter_accept (s : State) (cw : Word) (j : Nat) : (s.accept cw).devAfter j = s.devAfter j :=
  devAfter_congr s (s.accept cw) rfl (fun _ => rfl) j
@[simp] theorem byteAt_accept (s : State) (cw : Word) (j : Nat) (b : Byte) : (s.accept cw).byteAt j b = s.byteAt j b :=
  byteAt_congr s (s.accept cw) rfl (fun _ => rfl) j b
@[simp] theorem devAfter_answer (s : State) (i : Instr) (v : Word) (j : Nat) : (s.answer i v).devAfter j = s.devAfter j :=
  devAfter_congr s (s.answer i v) rfl (fun _ => rfl) j
@[simp] theorem byteAt_answer (s : State) (i : Instr) (v : Word) (j : Nat) (b : Byte) : (s.answer i v).byteAt j b = s.byteAt j b :=
  byteAt_congr s (s.answer i v) rfl (fun _ => rfl) j b
@[simp] theorem devAfter_setCalState (s : State) (c : BitVec 3) (j : Nat) : (setCalState c s).devAfter j = s.devAfter j :=
  devAfter_congr s (setCalState c s) rfl (fun _ => rfl) j
@[simp] theorem byteAt_setCalState (s : State) (c : BitVec 3) (j : Nat) (b : Byte) : (setCalState c s).byteAt j b = s.byteAt j b :=
  byteAt_congr s (setCalState c s) rfl (fun _ => rfl) j b

/-- The canonical form is kept by the device's own changes. -/
theorem environ_wf (s : State) (least : Word) (h : Memory.wf s.dev = true) : Memory.wf (s.environ least).dev = true :=
  writeAll_wf _ _ h

/-! ## Interactions -/

@[simp] theorem memRead_fst (a : Byte) (s : State) : (memRead a s).1 = s.readAnswer a := rfl
@[simp] theorem memRead_snd (a : Byte) (s : State) :
    (memRead a s).2 = (s.environ 0).log (.rd s.cfg.devAddr a (s.readAnswer a)) := rfl
@[simp] theorem memReadBlock_fst (a : Byte) (s : State) : (memReadBlock a s).1 = s.blockAnswer a := rfl
@[simp] theorem memReadBlock_snd (a : Byte) (s : State) :
    (memReadBlock a s).2 = (s.environ 0).log (.rdBlock s.cfg.devAddr a (s.blockAnswer a)) := rfl
@[simp] theorem memWrite_fst (a v : Byte) (s : State) : (memWrite a v s).1 = s.writeOk := rfl

/-- A read that does not fault answers the device's byte at that moment. -/
theorem readAnswer_ok (s : State) (a : Byte) (h : (s.moveAt 0).busFault = none) :
    s.readAnswer a = some (s.byteAt 0 a) := by simp [State.readAnswer, nextMove_eq, h, State.byteAt]

theorem readAnswer_fault (s : State) (a b : Byte) (h : (s.moveAt 0).busFault = some b) : s.readAnswer a = none := by
  simp [State.readAnswer, nextMove_eq, h]

theorem blockAnswer_ok (s : State) (a : Byte) (h : (s.moveAt 0).busFault = none) :
    s.blockAnswer a = some (s.byteAt 0 a, s.byteAt 0 (a + 1), s.byteAt 0 (a + 2)) := by
  simp [State.blockAnswer, nextMove_eq, h, State.byteAt]

theorem blockAnswer_fault (s : State) (a b : Byte) (h : (s.moveAt 0).busFault = some b) : s.blockAnswer a = none := by
  simp [State.blockAnswer, nextMove_eq, h]

theorem writeOk_iff (s : State) : s.writeOk = true ↔ (s.moveAt 0).busFault = none := by
  simp [State.writeOk, nextMove_eq]

/-! ## Failure -/

/-- A failure writes no register but what the failure action of `BEGIN` writes, and moves the position (R176). -/
theorem raise_of_not_begin (s : State) (i : Instr) (c : Cause) (h : ∀ l g r, i ≠ .begin l g r) :
    ∃ r, s.raise i c = s.goto r
      ∧ (r = .respond (some i) (failResponse c) ∨ i = .scan ∧ s.ledonValid = true ∧ r = .scan (.abort c)) := by
  cases i <;> first | exact absurd rfl (h _ _ _) | skip
  case scan =>
    cases hv : s.ledonValid
    · exact ⟨_, by simp [State.raise, hv], .inl rfl⟩
    · exact ⟨.scan (.abort c), by simp [State.raise, hv], .inr ⟨rfl, rfl, rfl⟩⟩
  all_goals exact ⟨_, rfl, .inl rfl⟩

/-! A failure changes the position, and for `BEGIN` the calibration state; nothing else (R176). -/

@[simp] theorem raise_busy (s : State) (i : Instr) (c : Cause) : (s.raise i c).busy = s.busy := by
  cases i <;> rfl
@[simp] theorem raise_zoff (s : State) (i : Instr) (c : Cause) : (s.raise i c).zoff = s.zoff := by
  cases i <;> rfl
@[simp] theorem raise_sr (s : State) (i : Instr) (c : Cause) : (s.raise i c).sr = s.sr := by
  cases i <;> rfl
@[simp] theorem raise_srv (s : State) (i : Instr) (c : Cause) : (s.raise i c).srv = s.srv := by
  cases i <;> rfl
@[simp] theorem raise_ch (s : State) (i : Instr) (c : Cause) : (s.raise i c).ch = s.ch := by
  cases i <;> rfl
@[simp] theorem raise_w (s : State) (i : Instr) (c : Cause) : (s.raise i c).w = s.w := by
  cases i <;> rfl
@[simp] theorem raise_ledonValid (s : State) (i : Instr) (c : Cause) : (s.raise i c).ledonValid = s.ledonValid := by
  cases i <;> rfl
@[simp] theorem raise_ledonIdx (s : State) (i : Instr) (c : Cause) : (s.raise i c).ledonIdx = s.ledonIdx := by
  cases i <;> rfl
@[simp] theorem raise_acc (s : State) (i : Instr) (c : Cause) : (s.raise i c).acc = s.acc := by
  cases i <;> rfl
@[simp] theorem raise_k (s : State) (i : Instr) (c : Cause) : (s.raise i c).k = s.k := by
  cases i <;> rfl
@[simp] theorem raise_t0 (s : State) (i : Instr) (c : Cause) : (s.raise i c).t0 = s.t0 := by
  cases i <;> rfl
@[simp] theorem raise_iter (s : State) (i : Instr) (c : Cause) : (s.raise i c).iter = s.iter := by
  cases i <;> rfl
@[simp] theorem raise_cfg (s : State) (i : Instr) (c : Cause) : (s.raise i c).cfg = s.cfg := by
  cases i <;> rfl
@[simp] theorem raise_port (s : State) (i : Instr) (c : Cause) : (s.raise i c).port = s.port := by
  cases i <;> rfl
@[simp] theorem raise_trace (s : State) (i : Instr) (c : Cause) : (s.raise i c).trace = s.trace := by
  cases i <;> rfl
@[simp] theorem raise_now (s : State) (i : Instr) (c : Cause) : (s.raise i c).now = s.now := by
  cases i <;> rfl
@[simp] theorem raise_dev (s : State) (i : Instr) (c : Cause) : (s.raise i c).dev = s.dev := by
  cases i <;> rfl
@[simp] theorem raise_led (s : State) (i : Instr) (c : Cause) : (s.raise i c).led = s.led := by
  cases i <;> rfl
@[simp] theorem raise_script (s : State) (i : Instr) (c : Cause) : (s.raise i c).script = s.script := by
  cases i <;> rfl
@[simp] theorem raise_tick (s : State) (i : Instr) (c : Cause) : (s.raise i c).tick = s.tick := by
  cases i <;> rfl

theorem raise_calState (s : State) (i : Instr) (c : Cause) (h : ∀ l g r, i ≠ .begin l g r) :
    (s.raise i c).calState = s.calState := by
  cases i <;> first | exact absurd rfl (h _ _ _) | rfl

theorem raise_fcause (s : State) (i : Instr) (c : Cause) (h : ∀ l g r, i ≠ .begin l g r) :
    (s.raise i c).fcause = s.fcause := by
  cases i <;> first | exact absurd rfl (h _ _ _) | rfl

/-- A failure leaves the response `(code, 0)` to deliver, after the failure action of `SCAN` if a channel is lit. -/
theorem raise_run (s : State) (i : Instr) (c : Cause) :
    (s.raise i c).run = some (.respond (some i) (failResponse c))
      ∨ i = .scan ∧ s.ledonValid = true ∧ (s.raise i c).run = some (.scan (.abort c)) := by
  cases i
  case scan => cases hv : s.ledonValid <;> simp [State.raise, hv]
  all_goals exact .inl rfl

/-! ## The frame of a meaning -/

/-- Everything a meaning can do in one step. -/
theorem command_cases {i : Instr} {start : State → State} {body : Running → State → State} {s t : State}
    (h : command i start body s = .next t) :
    (s.busy = false ∧ t = start (s.accept (encode i)))
      ∨ (s.busy = true ∧ ∃ r, s.run = some (.respond (some i) r) ∧ t = s.deliver r)
      ∨ (s.busy = true ∧ ∃ r, s.run = some r ∧ r.instr = some i ∧ (∀ j x, r ≠ .respond j x) ∧ t = body r s)
      ∨ (s.busy = true ∧ t = s ∧ ∀ r, s.run = some r → r.instr ≠ some i) := by
  simp only [command, Host.Outcome.next.injEq] at h
  subst h
  cases hb : s.busy with
  | false => exact .inl ⟨rfl, by simp⟩
  | true =>
    refine .inr ?_
    cases hr : s.run with
    | none => exact .inr (.inr ⟨rfl, by simp, by simp⟩)
    | some r =>
      by_cases hi : r.instr = some i
      · cases r
        case respond j x =>
          simp only [Running.instr] at hi
          subst hi
          exact .inl ⟨rfl, _, rfl, by simp⟩
        all_goals exact .inr (.inl ⟨rfl, _, rfl, hi, by simp, by simp [hi]⟩)
      · refine .inr (.inr ⟨rfl, ?_, by simpa using hi⟩)
        cases r <;> simp_all [Running.instr]

/-- A meaning started on a block that is not busy. -/
theorem command_idle (i : Instr) (start : State → State) (body : Running → State → State) (s : State)
    (h : s.busy = false) : command i start body s = .next (start (s.accept (encode i))) := by simp [command, h]

/-- A meaning whose response is due. -/
theorem command_respond (i : Instr) (start : State → State) (body : Running → State → State) (s : State) (r : Response)
    (hb : s.busy = true) (hr : s.run = some (.respond (some i) r)) :
    command i start body s = .next (s.deliver r) := by simp [command, hb, hr]

end Sys2Proof.Machine
end

