-- ==== Sys2Proof/Laws/Procedures.lean ====
section
/-! SUPPORT. Each procedure of the spec, one lemma per procedure that says everything one step of it can do: the position
it stands at, what the interaction answers, and what it leads to. A proof about a command cites these and never unfolds a
procedure. -/

namespace Sys2Proof.Machine

/-! ## What the coming moves bring, after an update -/

@[simp] theorem bitAt_environ (s : State) (least : Word) (j : Nat) (f : BitField) :
    (s.environ least).bitAt j f = s.bitAt (j + 1) f := by simp [State.bitAt]
@[simp] theorem bitAt_log (s : State) (e : Event) (j : Nat) (f : BitField) : (s.log e).bitAt j f = s.bitAt j f := by
  simp [State.bitAt]
@[simp] theorem bitAt_goto (s : State) (r : Running) (j : Nat) (f : BitField) : (s.goto r).bitAt j f = s.bitAt j f := by
  simp [State.bitAt]
@[simp] theorem bitAt_accept (s : State) (cw : Word) (j : Nat) (f : BitField) :
    (s.accept cw).bitAt j f = s.bitAt j f := by simp [State.bitAt]
@[simp] theorem sampleAt_environ (s : State) (least : Word) (j : Nat) :
    (s.environ least).sampleAt j = s.sampleAt (j + 1) := by simp [State.sampleAt]
@[simp] theorem sampleAt_log (s : State) (e : Event) (j : Nat) : (s.log e).sampleAt j = s.sampleAt j := by
  simp [State.sampleAt]
@[simp] theorem sampleAt_goto (s : State) (r : Running) (j : Nat) : (s.goto r).sampleAt j = s.sampleAt j := by
  simp [State.sampleAt]
@[simp] theorem sampleAt_accept (s : State) (cw : Word) (j : Nat) : (s.accept cw).sampleAt j = s.sampleAt j := by
  simp [State.sampleAt]
@[simp] theorem moveAt_uninitialize (s : State) (j : Nat) : s.uninitialize.moveAt j = s.moveAt j := rfl
@[simp] theorem devAfter_uninitialize (s : State) (j : Nat) : s.uninitialize.devAfter j = s.devAfter j :=
  devAfter_congr s s.uninitialize rfl (fun _ => rfl) j
@[simp] theorem byteAt_uninitialize (s : State) (j : Nat) (b : Byte) : s.uninitialize.byteAt j b = s.byteAt j b :=
  byteAt_congr s s.uninitialize rfl (fun _ => rfl) j b
@[simp] theorem bitAt_uninitialize (s : State) (j : Nat) (f : BitField) : s.uninitialize.bitAt j f = s.bitAt j f := by
  simp [State.bitAt]
@[simp] theorem sampleAt_uninitialize (s : State) (j : Nat) : s.uninitialize.sampleAt j = s.sampleAt j := by
  simp [State.sampleAt]
@[simp] theorem moveAt_faulted (s : State) (c : Cause) (j : Nat) : (s.faulted c).moveAt j = s.moveAt j := rfl
@[simp] theorem devAfter_faulted (s : State) (c : Cause) (j : Nat) : (s.faulted c).devAfter j = s.devAfter j :=
  devAfter_congr s (s.faulted c) rfl (fun _ => rfl) j
@[simp] theorem byteAt_faulted (s : State) (c : Cause) (j : Nat) (b : Byte) : (s.faulted c).byteAt j b = s.byteAt j b :=
  byteAt_congr s (s.faulted c) rfl (fun _ => rfl) j b
@[simp] theorem bitAt_faulted (s : State) (c : Cause) (j : Nat) (f : BitField) : (s.faulted c).bitAt j f = s.bitAt j f := by
  simp [State.bitAt]
@[simp] theorem sampleAt_faulted (s : State) (c : Cause) (j : Nat) : (s.faulted c).sampleAt j = s.sampleAt j := by
  simp [State.sampleAt]
@[simp] theorem moveAt_stamp (s : State) (j : Nat) : s.stamp.moveAt j = s.moveAt j := rfl
@[simp] theorem devAfter_stamp (s : State) (j : Nat) : s.stamp.devAfter j = s.devAfter j :=
  devAfter_congr s s.stamp rfl (fun _ => rfl) j
@[simp] theorem byteAt_stamp (s : State) (j : Nat) (b : Byte) : s.stamp.byteAt j b = s.byteAt j b :=
  byteAt_congr s s.stamp rfl (fun _ => rfl) j b
@[simp] theorem bitAt_stamp (s : State) (j : Nat) (f : BitField) : s.stamp.bitAt j f = s.bitAt j f := by
  simp [State.bitAt]
@[simp] theorem sampleAt_stamp (s : State) (j : Nat) : s.stamp.sampleAt j = s.sampleAt j := by
  simp [State.sampleAt]
@[simp] theorem moveAt_clearSum (s : State) (j : Nat) : s.clearSum.moveAt j = s.moveAt j := rfl
@[simp] theorem devAfter_clearSum (s : State) (j : Nat) : s.clearSum.devAfter j = s.devAfter j :=
  devAfter_congr s s.clearSum rfl (fun _ => rfl) j
@[simp] theorem byteAt_clearSum (s : State) (j : Nat) (b : Byte) : s.clearSum.byteAt j b = s.byteAt j b :=
  byteAt_congr s s.clearSum rfl (fun _ => rfl) j b
@[simp] theorem bitAt_clearSum (s : State) (j : Nat) (f : BitField) : s.clearSum.bitAt j f = s.bitAt j f := by
  simp [State.bitAt]
@[simp] theorem sampleAt_clearSum (s : State) (j : Nat) : s.clearSum.sampleAt j = s.sampleAt j := by
  simp [State.sampleAt]
@[simp] theorem moveAt_addSample (s : State) (v : Word) (j : Nat) : (s.addSample v).moveAt j = s.moveAt j := rfl
@[simp] theorem devAfter_addSample (s : State) (v : Word) (j : Nat) : (s.addSample v).devAfter j = s.devAfter j :=
  devAfter_congr s (s.addSample v) rfl (fun _ => rfl) j
@[simp] theorem byteAt_addSample (s : State) (v : Word) (j : Nat) (b : Byte) : (s.addSample v).byteAt j b = s.byteAt j b :=
  byteAt_congr s (s.addSample v) rfl (fun _ => rfl) j b
@[simp] theorem bitAt_addSample (s : State) (v : Word) (j : Nat) (f : BitField) : (s.addSample v).bitAt j f = s.bitAt j f := by
  simp [State.bitAt]
@[simp] theorem sampleAt_addSample (s : State) (v : Word) (j : Nat) : (s.addSample v).sampleAt j = s.sampleAt j := by
  simp [State.sampleAt]
@[simp] theorem moveAt_clearPolls (s : State) (j : Nat) : s.clearPolls.moveAt j = s.moveAt j := rfl
@[simp] theorem devAfter_clearPolls (s : State) (j : Nat) : s.clearPolls.devAfter j = s.devAfter j :=
  devAfter_congr s s.clearPolls rfl (fun _ => rfl) j
@[simp] theorem byteAt_clearPolls (s : State) (j : Nat) (b : Byte) : s.clearPolls.byteAt j b = s.byteAt j b :=
  byteAt_congr s s.clearPolls rfl (fun _ => rfl) j b
@[simp] theorem bitAt_clearPolls (s : State) (j : Nat) (f : BitField) : s.clearPolls.bitAt j f = s.bitAt j f := by
  simp [State.bitAt]
@[simp] theorem sampleAt_clearPolls (s : State) (j : Nat) : s.clearPolls.sampleAt j = s.sampleAt j := by
  simp [State.sampleAt]
@[simp] theorem moveAt_countPoll (s : State) (j : Nat) : s.countPoll.moveAt j = s.moveAt j := rfl
@[simp] theorem devAfter_countPoll (s : State) (j : Nat) : s.countPoll.devAfter j = s.devAfter j :=
  devAfter_congr s s.countPoll rfl (fun _ => rfl) j
@[simp] theorem byteAt_countPoll (s : State) (j : Nat) (b : Byte) : s.countPoll.byteAt j b = s.byteAt j b :=
  byteAt_congr s s.countPoll rfl (fun _ => rfl) j b
@[simp] theorem bitAt_countPoll (s : State) (j : Nat) (f : BitField) : s.countPoll.bitAt j f = s.bitAt j f := by
  simp [State.bitAt]
@[simp] theorem sampleAt_countPoll (s : State) (j : Nat) : s.countPoll.sampleAt j = s.sampleAt j := by
  simp [State.sampleAt]
@[simp] theorem moveAt_setZoff (s : State) (v : Word) (j : Nat) : (s.setZoff v).moveAt j = s.moveAt j := rfl
@[simp] theorem devAfter_setZoff (s : State) (v : Word) (j : Nat) : (s.setZoff v).devAfter j = s.devAfter j :=
  devAfter_congr s (s.setZoff v) rfl (fun _ => rfl) j
@[simp] theorem byteAt_setZoff (s : State) (v : Word) (j : Nat) (b : Byte) : (s.setZoff v).byteAt j b = s.byteAt j b :=
  byteAt_congr s (s.setZoff v) rfl (fun _ => rfl) j b
@[simp] theorem bitAt_setZoff (s : State) (v : Word) (j : Nat) (f : BitField) : (s.setZoff v).bitAt j f = s.bitAt j f := by
  simp [State.bitAt]
@[simp] theorem sampleAt_setZoff (s : State) (v : Word) (j : Nat) : (s.setZoff v).sampleAt j = s.sampleAt j := by
  simp [State.sampleAt]
@[simp] theorem moveAt_startScan (s : State) (j : Nat) : s.startScan.moveAt j = s.moveAt j := rfl
@[simp] theorem devAfter_startScan (s : State) (j : Nat) : s.startScan.devAfter j = s.devAfter j :=
  devAfter_congr s s.startScan rfl (fun _ => rfl) j
@[simp] theorem byteAt_startScan (s : State) (j : Nat) (b : Byte) : s.startScan.byteAt j b = s.byteAt j b :=
  byteAt_congr s s.startScan rfl (fun _ => rfl) j b
@[simp] theorem bitAt_startScan (s : State) (j : Nat) (f : BitField) : s.startScan.bitAt j f = s.bitAt j f := by
  simp [State.bitAt]
@[simp] theorem sampleAt_startScan (s : State) (j : Nat) : s.startScan.sampleAt j = s.sampleAt j := by
  simp [State.sampleAt]
@[simp] theorem moveAt_lit (s : State) (i : BitVec 3) (j : Nat) : (s.lit i).moveAt j = s.moveAt j := rfl
@[simp] theorem devAfter_lit (s : State) (i : BitVec 3) (j : Nat) : (s.lit i).devAfter j = s.devAfter j :=
  devAfter_congr s (s.lit i) rfl (fun _ => rfl) j
@[simp] theorem byteAt_lit (s : State) (i : BitVec 3) (j : Nat) (b : Byte) : (s.lit i).byteAt j b = s.byteAt j b :=
  byteAt_congr s (s.lit i) rfl (fun _ => rfl) j b
@[simp] theorem bitAt_lit (s : State) (i : BitVec 3) (j : Nat) (f : BitField) : (s.lit i).bitAt j f = s.bitAt j f := by
  simp [State.bitAt]
@[simp] theorem sampleAt_lit (s : State) (i : BitVec 3) (j : Nat) : (s.lit i).sampleAt j = s.sampleAt j := by
  simp [State.sampleAt]
@[simp] theorem moveAt_unlit (s : State) (j : Nat) : s.unlit.moveAt j = s.moveAt j := rfl
@[simp] theorem devAfter_unlit (s : State) (j : Nat) : s.unlit.devAfter j = s.devAfter j :=
  devAfter_congr s s.unlit rfl (fun _ => rfl) j
@[simp] theorem byteAt_unlit (s : State) (j : Nat) (b : Byte) : s.unlit.byteAt j b = s.byteAt j b :=
  byteAt_congr s s.unlit rfl (fun _ => rfl) j b
@[simp] theorem bitAt_unlit (s : State) (j : Nat) (f : BitField) : s.unlit.bitAt j f = s.bitAt j f := by
  simp [State.bitAt]
@[simp] theorem sampleAt_unlit (s : State) (j : Nat) : s.unlit.sampleAt j = s.sampleAt j := by
  simp [State.sampleAt]
@[simp] theorem moveAt_gather (s : State) (v : Word) (j : Nat) : (s.gather v).moveAt j = s.moveAt j := rfl
@[simp] theorem devAfter_gather (s : State) (v : Word) (j : Nat) : (s.gather v).devAfter j = s.devAfter j :=
  devAfter_congr s (s.gather v) rfl (fun _ => rfl) j
@[simp] theorem byteAt_gather (s : State) (v : Word) (j : Nat) (b : Byte) : (s.gather v).byteAt j b = s.byteAt j b :=
  byteAt_congr s (s.gather v) rfl (fun _ => rfl) j b
@[simp] theorem bitAt_gather (s : State) (v : Word) (j : Nat) (f : BitField) : (s.gather v).bitAt j f = s.bitAt j f := by
  simp [State.bitAt]
@[simp] theorem sampleAt_gather (s : State) (v : Word) (j : Nat) : (s.gather v).sampleAt j = s.sampleAt j := by
  simp [State.sampleAt]
@[simp] theorem moveAt_nextChannel (s : State) (j : Nat) : s.nextChannel.moveAt j = s.moveAt j := rfl
@[simp] theorem devAfter_nextChannel (s : State) (j : Nat) : s.nextChannel.devAfter j = s.devAfter j :=
  devAfter_congr s s.nextChannel rfl (fun _ => rfl) j
@[simp] theorem byteAt_nextChannel (s : State) (j : Nat) (b : Byte) : s.nextChannel.byteAt j b = s.byteAt j b :=
  byteAt_congr s s.nextChannel rfl (fun _ => rfl) j b
@[simp] theorem bitAt_nextChannel (s : State) (j : Nat) (f : BitField) : s.nextChannel.bitAt j f = s.bitAt j f := by
  simp [State.bitAt]
@[simp] theorem sampleAt_nextChannel (s : State) (j : Nat) : s.nextChannel.sampleAt j = s.sampleAt j := by
  simp [State.sampleAt]
@[simp] theorem moveAt_commit (s : State) (j : Nat) : s.commit.moveAt j = s.moveAt j := rfl
@[simp] theorem devAfter_commit (s : State) (j : Nat) : s.commit.devAfter j = s.devAfter j :=
  devAfter_congr s s.commit rfl (fun _ => rfl) j
@[simp] theorem byteAt_commit (s : State) (j : Nat) (b : Byte) : s.commit.byteAt j b = s.byteAt j b :=
  byteAt_congr s s.commit rfl (fun _ => rfl) j b
@[simp] theorem bitAt_commit (s : State) (j : Nat) (f : BitField) : s.commit.bitAt j f = s.bitAt j f := by
  simp [State.bitAt]
@[simp] theorem sampleAt_commit (s : State) (j : Nat) : s.commit.sampleAt j = s.sampleAt j := by
  simp [State.sampleAt]
@[simp] theorem moveAt_withPort (s : State) (rest : List Word) (j : Nat) : (s.withPort rest).moveAt j = s.moveAt j := rfl
@[simp] theorem devAfter_withPort (s : State) (rest : List Word) (j : Nat) : (s.withPort rest).devAfter j = s.devAfter j :=
  devAfter_congr s (s.withPort rest) rfl (fun _ => rfl) j
@[simp] theorem byteAt_withPort (s : State) (rest : List Word) (j : Nat) (b : Byte) : (s.withPort rest).byteAt j b = s.byteAt j b :=
  byteAt_congr s (s.withPort rest) rfl (fun _ => rfl) j b
@[simp] theorem moveAt_memWrite (s : State) (a v : Byte) (j : Nat) : (memWrite a v s).2.moveAt j = s.moveAt (j + 1) :=
  moveAt_environ s 0 j
@[simp] theorem moveAt_ledSet (s : State) (i : BitVec 3) (on : Bool) (j : Nat) :
    (ledSet i on s).moveAt j = s.moveAt (j + 1) := moveAt_environ s 0 j
@[simp] theorem moveAt_delay (s : State) (k : Word) (j : Nat) : (delay k s).moveAt j = s.moveAt (j + 1) :=
  moveAt_environ s k j
@[simp] theorem moveAt_readNow (s : State) (j : Nat) : (readNow s).moveAt j = s.moveAt (j + 1) := moveAt_environ s 0 j

/-! ## Register driver -/

/-- One bus read and the bit of its answer; or a fault, and no bit (R90). -/
theorem getBit_cases {f : BitField} {s : State} {x : Option Bool × State} (h : getBit f s = x) :
    ((s.moveAt 0).busFault = none ∧ s.readAnswer f.reg = some (s.byteAt 0 f.reg)
        ∧ x = (some (s.bitAt 0 f), (s.environ 0).log (.rd s.cfg.devAddr f.reg (some (s.byteAt 0 f.reg)))))
      ∨ (∃ b, (s.moveAt 0).busFault = some b ∧ x = (none, (s.environ 0).log (.rd s.cfg.devAddr f.reg none))) := by
  subst h
  cases hm : (s.moveAt 0).busFault with
  | none => exact .inl ⟨rfl, readAnswer_ok s _ hm, by simp [getBit, readAnswer_ok s _ hm, State.bitAt]⟩
  | some b => exact .inr ⟨b, rfl, by simp [getBit, readAnswer_fault s _ b hm]⟩

theorem getBit_ok (f : BitField) (s : State) (h : (s.moveAt 0).busFault = none) :
    getBit f s = (some (s.bitAt 0 f), (s.environ 0).log (.rd s.cfg.devAddr f.reg (some (s.byteAt 0 f.reg)))) := by
  simp [getBit, readAnswer_ok s _ h, State.bitAt]

theorem getBit_fault (f : BitField) (s : State) (h : (s.moveAt 0).busFault.isSome = true) :
    getBit f s = (none, (s.environ 0).log (.rd s.cfg.devAddr f.reg none)) := by
  obtain ⟨b, hb⟩ := Option.isSome_iff_exists.mp h
  simp [getBit, readAnswer_fault s _ b hb]

/-- A read, then a write of the changed byte; a fault of either ends it (R91, R92, R95). -/
theorem readModifyWrite_cases {reg : Byte} {change : Byte → Byte} {p : RmwPos} {s : State} {x : Res RmwPos Unit × State}
    (h : readModifyWrite reg change p s = x) :
    (p = .read ∧ (s.moveAt 0).busFault = none
        ∧ x = (.goto (.write (change (s.byteAt 0 reg))),
            (s.environ 0).log (.rd s.cfg.devAddr reg (some (s.byteAt 0 reg)))))
      ∨ (p = .read ∧ (∃ b, (s.moveAt 0).busFault = some b)
        ∧ x = (.raise .busFault, (s.environ 0).log (.rd s.cfg.devAddr reg none)))
      ∨ (∃ v, p = .write v ∧ (s.moveAt 0).busFault = none ∧ s.writeOk = true
        ∧ x = (.done (), (memWrite reg v s).2))
      ∨ (∃ v, p = .write v ∧ (∃ b, (s.moveAt 0).busFault = some b) ∧ s.writeOk = false
        ∧ x = (.raise .busFault, (memWrite reg v s).2)) := by
  subst h
  cases p with
  | read =>
    cases hm : (s.moveAt 0).busFault with
    | none => exact .inl ⟨rfl, rfl, by simp [readModifyWrite, memRead, readAnswer_ok s _ hm]⟩
    | some b => exact .inr (.inl ⟨rfl, ⟨b, rfl⟩, by simp [readModifyWrite, memRead, readAnswer_fault s _ b hm]⟩)
  | write v =>
    refine .inr (.inr ?_)
    cases hm : (s.moveAt 0).busFault with
    | none =>
      have hw : s.writeOk = true := (writeOk_iff s).mpr hm
      exact .inl ⟨v, rfl, rfl, hw, by simp [readModifyWrite, memWrite, hw]⟩
    | some b =>
      have hw : s.writeOk = false := by simp [State.writeOk, nextMove_eq, hm]
      exact .inr ⟨v, rfl, ⟨b, rfl⟩, hw, by simp [readModifyWrite, memWrite, hw]⟩

theorem readModifyWrite_read_ok (reg : Byte) (change : Byte → Byte) (s : State) (h : (s.moveAt 0).busFault = none) :
    readModifyWrite reg change .read s = (.goto (.write (change (s.byteAt 0 reg))),
      (s.environ 0).log (.rd s.cfg.devAddr reg (some (s.byteAt 0 reg)))) := by
  simp [readModifyWrite, memRead, readAnswer_ok s _ h]

theorem readModifyWrite_read_fault (reg : Byte) (change : Byte → Byte) (s : State)
    (h : (s.moveAt 0).busFault.isSome = true) :
    readModifyWrite reg change .read s = (.raise .busFault, (s.environ 0).log (.rd s.cfg.devAddr reg none)) := by
  obtain ⟨b, hb⟩ := Option.isSome_iff_exists.mp h
  simp [readModifyWrite, memRead, readAnswer_fault s _ b hb]

theorem readModifyWrite_write_ok (reg : Byte) (change : Byte → Byte) (v : Byte) (s : State)
    (h : (s.moveAt 0).busFault = none) :
    readModifyWrite reg change (.write v) s = (.done (), (memWrite reg v s).2) := by
  have hw : s.writeOk = true := (writeOk_iff s).mpr h
  simp [readModifyWrite, memWrite, hw]

theorem readModifyWrite_write_fault (reg : Byte) (change : Byte → Byte) (v : Byte) (s : State)
    (h : (s.moveAt 0).busFault.isSome = true) :
    readModifyWrite reg change (.write v) s = (.raise .busFault, (memWrite reg v s).2) := by
  have hw : s.writeOk = false := by
    obtain ⟨b, hb⟩ := Option.isSome_iff_exists.mp h
    simp [State.writeOk, nextMove_eq, hb]
  simp [readModifyWrite, memWrite, hw]

/-! ## Sampling -/

/-- The block read and the decode; or a fault, and no sample (R137). -/
theorem readSample_ok (s : State) (h : (s.moveAt 0).busFault = none) :
    readSample s = (some (s.sampleAt 0), (s.environ 0).log (.rdBlock s.cfg.devAddr s.cfg.regMap.regAdcoB2
      (some (s.byteAt 0 s.cfg.regMap.regAdcoB2, s.byteAt 0 (s.cfg.regMap.regAdcoB2 + 1),
        s.byteAt 0 (s.cfg.regMap.regAdcoB2 + 2))))) := by
  simp [readSample, blockAnswer_ok s _ h, State.sampleAt]

theorem readSample_fault (s : State) (h : (s.moveAt 0).busFault.isSome = true) :
    readSample s = (none, (s.environ 0).log (.rdBlock s.cfg.devAddr s.cfg.regMap.regAdcoB2 none)) := by
  obtain ⟨b, hb⟩ := Option.isSome_iff_exists.mp h
  simp [readSample, blockAnswer_fault s _ b hb]

@[simp] theorem readSample_snd (s : State) :
    (readSample s).2 = (s.environ 0).log
      (.rdBlock s.cfg.devAddr s.cfg.regMap.regAdcoB2 (s.blockAnswer s.cfg.regMap.regAdcoB2)) := rfl

/-- A poll, then the sample or a delay (R138). -/
theorem getReading_cases {p : ReadPos} {s : State} {x : Res ReadPos Word × State} (h : getReading p s = x) :
    (p = .poll ∧ (s.moveAt 0).busFault = none
        ∧ x = (.goto (if s.bitAt 0 s.cfg.regMap.fCr then .sample else .pause),
            (s.environ 0).log (.rd s.cfg.devAddr s.cfg.regMap.fCr.reg (some (s.byteAt 0 s.cfg.regMap.fCr.reg)))))
      ∨ (p = .poll ∧ (∃ b, (s.moveAt 0).busFault = some b)
        ∧ x = (.raise .busFault, (s.environ 0).log (.rd s.cfg.devAddr s.cfg.regMap.fCr.reg none)))
      ∨ (p = .sample ∧ (s.moveAt 0).busFault = none
        ∧ x = (.done (s.sampleAt 0), (readSample s).2))
      ∨ (p = .sample ∧ (∃ b, (s.moveAt 0).busFault = some b) ∧ x = (.raise .busFault, (readSample s).2))
      ∨ (p = .pause ∧ x = (.goto .poll, delay s.cfg.rdPollMs s)) := by
  subst h
  cases p with
  | pause => exact .inr (.inr (.inr (.inr ⟨rfl, rfl⟩)))
  | poll =>
    cases hm : (s.moveAt 0).busFault with
    | none =>
      refine .inl ⟨rfl, rfl, ?_⟩
      simp only [getReading, available, getBit_ok _ s hm]
      cases s.bitAt 0 s.cfg.regMap.fCr <;> rfl
    | some b => exact .inr (.inl ⟨rfl, ⟨b, rfl⟩, by simp [getReading, available, getBit_fault _ s (by simp [hm])]⟩)
  | sample =>
    cases hm : (s.moveAt 0).busFault with
    | none => exact .inr (.inr (.inl ⟨rfl, rfl, by simp [getReading, readSample_ok s hm]⟩))
    | some b => exact .inr (.inr (.inr (.inl ⟨rfl, ⟨b, rfl⟩, by simp [getReading, readSample_fault s (by simp [hm])]⟩)))

/-- A start time, then polls, samples, time tests and delays (R139). -/
theorem average_cases {n : BitVec 16} {p : AvgPos} {s : State} {x : Res AvgPos Word × State} (h : average n p s = x) :
    (p = .stamp ∧ x = (.goto .poll, (readNow s).stamp.clearSum))
      ∨ (p = .poll ∧ (s.moveAt 0).busFault = none
        ∧ x = (.goto (if s.bitAt 0 s.cfg.regMap.fCr then .sample else .clock),
            (s.environ 0).log (.rd s.cfg.devAddr s.cfg.regMap.fCr.reg (some (s.byteAt 0 s.cfg.regMap.fCr.reg)))))
      ∨ (p = .poll ∧ (∃ b, (s.moveAt 0).busFault = some b)
        ∧ x = (.raise .busFault, (s.environ 0).log (.rd s.cfg.devAddr s.cfg.regMap.fCr.reg none)))
      ∨ (p = .sample ∧ (s.moveAt 0).busFault = none ∧ s.k + 1 = n
        ∧ x = (.done (meanOf s.cfg (accumulate s.acc (s.sampleAt 0)) n),
            (readSample s).2.addSample (s.sampleAt 0)))
      ∨ (p = .sample ∧ (s.moveAt 0).busFault = none ∧ s.k + 1 ≠ n
        ∧ x = (.goto .clock, (readSample s).2.addSample (s.sampleAt 0)))
      ∨ (p = .sample ∧ (∃ b, (s.moveAt 0).busFault = some b) ∧ x = (.raise .busFault, (readSample s).2))
      ∨ (p = .clock ∧ s.cfg.avgBudgetMs < elapsedSince s.t0 (s.environ 0).now
        ∧ x = (.raise .sampleTimeout, readNow s))
      ∨ (p = .clock ∧ ¬ s.cfg.avgBudgetMs < elapsedSince s.t0 (s.environ 0).now ∧ x = (.goto .pause, readNow s))
      ∨ (p = .pause ∧ x = (.goto .poll, delay s.cfg.avgPollMs s)) := by
  subst h
  cases p with
  | stamp => exact .inl ⟨rfl, rfl⟩
  | poll =>
    refine .inr ?_
    cases hm : (s.moveAt 0).busFault with
    | none =>
      refine .inl ⟨rfl, rfl, ?_⟩
      simp only [average, available, getBit_ok _ s hm]
      cases s.bitAt 0 s.cfg.regMap.fCr <;> rfl
    | some b => exact .inr (.inl ⟨rfl, ⟨b, rfl⟩, by simp [average, available, getBit_fault _ s (by simp [hm])]⟩)
  | sample =>
    refine .inr (.inr (.inr ?_))
    cases hm : (s.moveAt 0).busFault with
    | none =>
      by_cases hk : s.k + 1 = n
      · refine .inl ⟨rfl, rfl, hk, ?_⟩
        simp only [average, readSample_ok s hm]
        rw [if_pos (by exact hk)]
        rfl
      · refine .inr (.inl ⟨rfl, rfl, hk, ?_⟩)
        simp only [average, readSample_ok s hm]
        rw [if_neg (by exact hk)]
    | some b =>
      exact .inr (.inr (.inl ⟨rfl, ⟨b, rfl⟩, by simp [average, readSample_fault s (by simp [hm])]⟩))
  | clock =>
    refine .inr (.inr (.inr (.inr (.inr (.inr ?_)))))
    by_cases hc : s.cfg.avgBudgetMs < elapsedSince s.t0 (s.environ 0).now
    · exact .inl ⟨rfl, hc, by simp only [average]; rw [if_pos (by simpa using hc)]⟩
    · exact .inr (.inl ⟨rfl, hc, by simp only [average]; rw [if_neg (by simpa using hc)]⟩)
  | pause => exact .inr (.inr (.inr (.inr (.inr (.inr (.inr (.inr ⟨rfl, rfl⟩)))))))

/-! ## Calibration -/

/-- The start bit, then only when it is clear the error bit (R113). -/
theorem calStatus_cases {p : StatPos} {s : State} {x : Res StatPos CalStatus × State} (h : calStatus p s = x) :
    (p = .startBit ∧ (s.moveAt 0).busFault = none ∧ s.bitAt 0 s.cfg.regMap.fCals = true
        ∧ x = (.done .inProgress,
            (s.environ 0).log (.rd s.cfg.devAddr s.cfg.regMap.fCals.reg (some (s.byteAt 0 s.cfg.regMap.fCals.reg)))))
      ∨ (p = .startBit ∧ (s.moveAt 0).busFault = none ∧ s.bitAt 0 s.cfg.regMap.fCals = false
        ∧ x = (.goto .errorBit,
            (s.environ 0).log (.rd s.cfg.devAddr s.cfg.regMap.fCals.reg (some (s.byteAt 0 s.cfg.regMap.fCals.reg)))))
      ∨ (p = .startBit ∧ (∃ b, (s.moveAt 0).busFault = some b)
        ∧ x = (.raise .busFault, (s.environ 0).log (.rd s.cfg.devAddr s.cfg.regMap.fCals.reg none)))
      ∨ (p = .errorBit ∧ (s.moveAt 0).busFault = none
        ∧ x = (.done (if s.bitAt 0 s.cfg.regMap.fCalerr then .failure else .success),
            (s.environ 0).log
              (.rd s.cfg.devAddr s.cfg.regMap.fCalerr.reg (some (s.byteAt 0 s.cfg.regMap.fCalerr.reg)))))
      ∨ (p = .errorBit ∧ (∃ b, (s.moveAt 0).busFault = some b)
        ∧ x = (.raise .busFault, (s.environ 0).log (.rd s.cfg.devAddr s.cfg.regMap.fCalerr.reg none))) := by
  subst h
  cases p with
  | startBit =>
    cases hm : (s.moveAt 0).busFault with
    | none =>
      cases hc : s.bitAt 0 s.cfg.regMap.fCals with
      | true => exact .inl ⟨rfl, rfl, rfl, by simp only [calStatus, getBit_ok _ s hm, hc]⟩
      | false => exact .inr (.inl ⟨rfl, rfl, rfl, by simp only [calStatus, getBit_ok _ s hm, hc]⟩)
    | some b =>
      exact .inr (.inr (.inl ⟨rfl, ⟨b, rfl⟩, by simp [calStatus, getBit_fault _ s (by simp [hm])]⟩))
  | errorBit =>
    refine .inr (.inr (.inr ?_))
    cases hm : (s.moveAt 0).busFault with
    | none =>
      refine .inl ⟨rfl, rfl, ?_⟩
      simp only [calStatus, getBit_ok _ s hm]
      cases s.bitAt 0 s.cfg.regMap.fCalerr <;> rfl
    | some b => exact .inr ⟨rfl, ⟨b, rfl⟩, by simp [calStatus, getBit_fault _ s (by simp [hm])]⟩

/-- A start time, then status polls, time tests while in progress, and delays (R114). -/
theorem waitCal_cases {t : Int} {p : WaitPos} {s : State} {x : Res WaitPos WaitResult × State} (h : waitCal t p s = x) :
    (p = .stamp ∧ x = (.goto (.stat .startBit), (readNow s).stamp))
      ∨ (p = .stat .startBit ∧ (s.moveAt 0).busFault = none
        ∧ x = (.goto (if s.bitAt 0 s.cfg.regMap.fCals then (if 0 < t then .clock else .pause) else .stat .errorBit),
            (s.environ 0).log (.rd s.cfg.devAddr s.cfg.regMap.fCals.reg (some (s.byteAt 0 s.cfg.regMap.fCals.reg)))))
      ∨ (p = .stat .startBit ∧ (∃ b, (s.moveAt 0).busFault = some b)
        ∧ x = (.raise .busFault, (s.environ 0).log (.rd s.cfg.devAddr s.cfg.regMap.fCals.reg none)))
      ∨ (p = .stat .errorBit ∧ (s.moveAt 0).busFault = none ∧ s.bitAt 0 s.cfg.regMap.fCalerr = true
        ∧ x = (.done .failure,
            (s.environ 0).log
              (.rd s.cfg.devAddr s.cfg.regMap.fCalerr.reg (some (s.byteAt 0 s.cfg.regMap.fCalerr.reg)))))
      ∨ (p = .stat .errorBit ∧ (s.moveAt 0).busFault = none ∧ s.bitAt 0 s.cfg.regMap.fCalerr = false
        ∧ x = (.done .success,
            (s.environ 0).log
              (.rd s.cfg.devAddr s.cfg.regMap.fCalerr.reg (some (s.byteAt 0 s.cfg.regMap.fCalerr.reg)))))
      ∨ (p = .stat .errorBit ∧ (∃ b, (s.moveAt 0).busFault = some b)
        ∧ x = (.raise .busFault, (s.environ 0).log (.rd s.cfg.devAddr s.cfg.regMap.fCalerr.reg none)))
      ∨ (p = .clock ∧ 0 < t ∧ t < (elapsedSince s.t0 (s.environ 0).now).toNat ∧ x = (.done .timedOut, readNow s))
      ∨ (p = .clock ∧ ¬ (0 < t ∧ t < (elapsedSince s.t0 (s.environ 0).now).toNat) ∧ x = (.goto .pause, readNow s))
      ∨ (p = .pause ∧ x = (.goto (.stat .startBit), delay s.cfg.calPollMs s)) := by
  subst h
  cases p with
  | stamp => exact .inl ⟨rfl, rfl⟩
  | stat q =>
    refine .inr ?_
    generalize hx : calStatus q s = x
    rcases calStatus_cases hx with ⟨rfl, hm, hc, rfl⟩ | ⟨rfl, hm, hc, rfl⟩ | ⟨rfl, hm, rfl⟩ | ⟨rfl, hm, rfl⟩ | ⟨rfl, hm, rfl⟩
    · exact .inl ⟨rfl, hm, by simp only [waitCal, hx, hc, if_true]⟩
    · exact .inl ⟨rfl, hm, by simp [waitCal, hx, hc]⟩
    · exact .inr (.inl ⟨rfl, hm, by simp [waitCal, hx]⟩)
    · cases he : s.bitAt 0 s.cfg.regMap.fCalerr with
      | true =>
        rw [he, if_pos rfl] at hx
        exact .inr (.inr (.inl ⟨rfl, hm, rfl, by simp only [waitCal, hx]⟩))
      | false =>
        rw [he, if_neg Bool.false_ne_true] at hx
        exact .inr (.inr (.inr (.inl ⟨rfl, hm, rfl, by simp only [waitCal, hx]⟩)))
    · exact .inr (.inr (.inr (.inr (.inl ⟨rfl, hm, by simp [waitCal, hx]⟩))))
  | clock =>
    refine .inr (.inr (.inr (.inr (.inr (.inr ?_)))))
    by_cases hc : 0 < t ∧ t < (elapsedSince s.t0 (s.environ 0).now).toNat
    · exact .inl ⟨rfl, hc.1, hc.2, by simp only [waitCal, readNow_now, hc, and_self, if_true]⟩
    · exact .inr (.inl ⟨rfl, hc, by simp only [waitCal, readNow_now, hc, if_false]⟩)
  | pause => exact .inr (.inr (.inr (.inr (.inr (.inr (.inr (.inr ⟨rfl, rfl⟩)))))))

/-- The state a power-up poll that does not fault leaves (R112). -/
def State.polled (s : State) : State :=
  ((s.environ 0).log (.rd s.cfg.devAddr s.cfg.regMap.fPur.reg (some (s.byteAt 0 s.cfg.regMap.fPur.reg)))).countPoll

/-- One power-up poll (R112). -/
theorem powerUpPoll_cases {s : State} {x : Res Unit Unit × State} (h : powerUpPoll s = x) :
    ((s.moveAt 0).busFault = none ∧ s.bitAt 0 s.cfg.regMap.fPur = true ∧ x = (.done (), s.polled))
      ∨ ((s.moveAt 0).busFault = none ∧ s.bitAt 0 s.cfg.regMap.fPur = false ∧ s.iter + 1 = s.cfg.puPollMax
        ∧ x = (.raise .powerUpTimeout, s.polled))
      ∨ ((s.moveAt 0).busFault = none ∧ s.bitAt 0 s.cfg.regMap.fPur = false ∧ s.iter + 1 ≠ s.cfg.puPollMax
        ∧ x = (.goto (), s.polled))
      ∨ ((∃ b, (s.moveAt 0).busFault = some b)
        ∧ x = (.raise .busFault, (s.environ 0).log (.rd s.cfg.devAddr s.cfg.regMap.fPur.reg none))) := by
  subst h
  cases hm : (s.moveAt 0).busFault with
  | none =>
    cases hp : s.bitAt 0 s.cfg.regMap.fPur with
    | true => exact .inl ⟨rfl, rfl, by simp only [powerUpPoll, getBit_ok _ s hm, hp]; rfl⟩
    | false =>
      by_cases hi : s.iter + 1 = s.cfg.puPollMax
      · refine .inr (.inl ⟨rfl, rfl, hi, ?_⟩)
        simp only [powerUpPoll, getBit_ok _ s hm, hp, State.polled]
        rw [if_pos (by exact hi)]
      · refine .inr (.inr (.inl ⟨rfl, rfl, hi, ?_⟩))
        simp only [powerUpPoll, getBit_ok _ s hm, hp, State.polled]
        rw [if_neg (by exact hi)]
  | some b => exact .inr (.inr (.inr ⟨⟨b, rfl⟩, by simp [powerUpPoll, getBit_fault _ s (by simp [hm])]⟩))

end Sys2Proof.Machine
end

