-- ==== Sys2Proof/Laws/Commands.lean ====
section
/-! SUPPORT. Each command, one equation per place it can be at: accepted, at each position of its pseudocode, and its
response due. A proof about a command rewrites with these and never unfolds a meaning. -/

namespace Sys2Proof.Machine


/-! ## A command is accepted (R22) -/

theorem getbit_accepted (s : State) (reg : Byte) (bit : BitVec 3) (h : s.busy = false) :
    exec (.getbit reg bit) s = .next ((s.accept (encode (.getbit reg bit))).goto (.getbit reg bit)) := by simp [exec, execGetbit, command, h]

theorem setbit_accepted (s : State) (reg : Byte) (bit : BitVec 3) (h : s.busy = false) :
    exec (.setbit reg bit) s = .next ((s.accept (encode (.setbit reg bit))).goto (.setbit reg bit .read)) := by simp [exec, execSetbit, command, h]

theorem clrbit_accepted (s : State) (reg : Byte) (bit : BitVec 3) (h : s.busy = false) :
    exec (.clrbit reg bit) s = .next ((s.accept (encode (.clrbit reg bit))).goto (.clrbit reg bit .read)) := by simp [exec, execClrbit, command, h]

theorem decode_accepted (s : State) (raw : Raw) (h : s.busy = false) :
    exec (.decode raw) s = .next ((s.accept (encode (.decode raw))).answer (.decode raw)
      (decodeSample s.cfg (raw.extractLsb' 16 8) (raw.extractLsb' 8 8) (raw.extractLsb' 0 8))) := by simp [exec, execDecode, command, h]

theorem setgain_accepted (s : State) (code : Byte) (h : s.busy = false) :
    exec (.setgain code) s = .next ((s.accept (encode (.setgain code))).goto (.setgain code .read)) := by simp [exec, execSetgain, command, h]

theorem setrate_accepted (s : State) (code : Byte) (h : s.busy = false) :
    exec (.setrate code) s = .next ((s.accept (encode (.setrate code))).goto (.setrate code .read)) := by simp [exec, execSetrate, command, h]

theorem setldo_accepted (s : State) (code : Byte) (h : s.busy = false) :
    exec (.setldo code) s = .next ((s.accept (encode (.setldo code))).goto (.setldo code .read)) := by simp [exec, execSetldo, command, h]

theorem begin_accepted (s : State) (ldo gain rate : Byte) (h : s.busy = false) :
    exec (.begin ldo gain rate) s = .next ((s.accept (encode (.begin ldo gain rate))).uninitialize.goto (.begin ldo gain rate (.resetSet .read))) := by simp [exec, execBegin, command, h]

theorem calafe_accepted (s : State) (tmo : Raw) (h : s.busy = false) :
    exec (.calafe tmo) s = .next ((s.accept (encode (.calafe tmo))).goto (.calafe tmo (.start .read))) := by simp [exec, execCalafe, command, h]

theorem waitcal_accepted (s : State) (tmo : Raw) (h : s.busy = false) :
    exec (.waitcal tmo) s = .next ((s.accept (encode (.waitcal tmo))).goto (.waitcal tmo .stamp)) := by simp [exec, execWaitcal, command, h]

theorem calstat_accepted (s : State) (h : s.busy = false) :
    exec .calstat s = .next ((s.accept (encode .calstat)).goto (.calstat .startBit)) := by simp [exec, execCalstat, command, h]

theorem calzero_accepted (s : State) (n : BitVec 16) (h : s.busy = false) :
    exec (.calzero n) s = .next
      (if countFits s.cfg n then (s.accept (encode (.calzero n))).goto (.calzero n .stamp)
      else (s.accept (encode (.calzero n))).goto (.respond (some (.calzero n)) (failResponse .illegalOperand))) := by
  cases hn : countFits s.cfg n <;> simp [exec, execCalzero, command, h, hn, State.raise]

theorem avail_accepted (s : State) (h : s.busy = false) :
    exec .avail s = .next ((s.accept (encode .avail)).goto .avail) := by simp [exec, execAvail, command, h]

theorem getrd_accepted (s : State) (h : s.busy = false) :
    exec .getrd s = .next ((s.accept (encode .getrd)).goto (.getrd .poll)) := by simp [exec, execGetrd, command, h]

theorem getavg_accepted (s : State) (n : BitVec 16) (h : s.busy = false) :
    exec (.getavg n) s = .next
      (if countFits s.cfg n then (s.accept (encode (.getavg n))).goto (.getavg n .stamp)
      else (s.accept (encode (.getavg n))).goto (.respond (some (.getavg n)) (failResponse .illegalOperand))) := by
  cases hn : countFits s.cfg n <;> simp [exec, execGetavg, command, h, hn, State.raise]

theorem getled_accepted (s : State) (cl : Bool) (h : s.busy = false) :
    exec (.getled cl) s = .next ((s.accept (encode (.getled cl))).goto (.getled cl .poll)) := by simp [exec, execGetled, command, h]

theorem scan_accepted (s : State) (h : s.busy = false) :
    exec .scan s = .next ((s.accept (encode .scan)).startScan.goto (.scan .lightOn)) := by simp [exec, execScan, command, h]

theorem rdsr_accepted (s : State) (idx : BitVec 3) (h : s.busy = false) :
    exec (.rdsr idx) s = .next (if s.srv then (s.accept (encode (.rdsr idx))).answer (.rdsr idx) (resultAt s.sr idx)
      else (s.accept (encode (.rdsr idx))).goto (.respond (some (.rdsr idx)) (failResponse .noData))) := by
  cases hv : s.srv <;> simp [exec, execRdsr, command, h, hv, State.raise]

theorem rdstate_accepted (s : State) (h : s.busy = false) :
    exec .rdstate s = .next ((s.accept (encode .rdstate)).answer .rdstate (stateWord s)) := by
  simp [exec, execRdstate, command, h, stateWord]

theorem rdzoff_accepted (s : State) (h : s.busy = false) :
    exec .rdzoff s = .next ((s.accept (encode .rdzoff)).answer .rdzoff s.zoff) := by simp [exec, execRdzoff, command, h]

/-! ## A command at a position (R24) -/

theorem getbit_at (s : State) (reg : Byte) (bit : BitVec 3) (hb : s.busy = true) (hr : s.run = some (.getbit reg bit)) :
    exec (.getbit reg bit) s = .next
      (match getBit ⟨reg, bit⟩ s with
      | (some b, s) => s.answer (.getbit reg bit) (boolWord b)
      | (none, s) => s.raise (.getbit reg bit) .busFault) := by
  simp [exec, execGetbit, command, hb, hr, Running.instr] <;> rfl

theorem avail_at (s : State) (hb : s.busy = true) (hr : s.run = some .avail) :
    exec .avail s = .next
      (match available s with
      | (some b, s) => s.answer .avail (boolWord b)
      | (none, s) => s.raise .avail .busFault) := by
  simp [exec, execAvail, command, hb, hr, Running.instr] <;> rfl

theorem setbit_at (s : State) (reg : Byte) (bit : BitVec 3) (p : RmwPos) (hb : s.busy = true) (hr : s.run = some (.setbit reg bit p)) :
    exec (.setbit reg bit) s = .next (resume (.setbit reg bit) (.setbit reg bit) (fun _ s => s.answer (.setbit reg bit) 0) (setBit ⟨reg, bit⟩ p s)) := by
  simp [exec, execSetbit, command, hb, hr, Running.instr]

theorem clrbit_at (s : State) (reg : Byte) (bit : BitVec 3) (p : RmwPos) (hb : s.busy = true) (hr : s.run = some (.clrbit reg bit p)) :
    exec (.clrbit reg bit) s = .next (resume (.clrbit reg bit) (.clrbit reg bit) (fun _ s => s.answer (.clrbit reg bit) 0) (clearBit ⟨reg, bit⟩ p s)) := by
  simp [exec, execClrbit, command, hb, hr, Running.instr]

theorem setgain_at (s : State) (code : Byte) (p : RmwPos) (hb : s.busy = true) (hr : s.run = some (.setgain code p)) :
    exec (.setgain code) s = .next (resume (.setgain code) (.setgain code) (fun _ s => s.answer (.setgain code) (codeWord s.cfg code))
      (writeField s.cfg.regMap.fldGain code p s)) := by
  simp [exec, execSetgain, command, hb, hr, Running.instr]

theorem setrate_at (s : State) (code : Byte) (p : RmwPos) (hb : s.busy = true) (hr : s.run = some (.setrate code p)) :
    exec (.setrate code) s = .next (resume (.setrate code) (.setrate code) (fun _ s => s.answer (.setrate code) (codeWord s.cfg code))
      (writeField s.cfg.regMap.fldRate code p s)) := by
  simp [exec, execSetrate, command, hb, hr, Running.instr]

theorem setldo_at (s : State) (code : Byte) (p : RmwPos) (hb : s.busy = true) (hr : s.run = some (.setldo code p)) :
    exec (.setldo code) s = .next (resume (.setldo code) (.setldo code) (fun _ s => s.answer (.setldo code) (codeWord s.cfg code))
      (writeField s.cfg.regMap.fldLdo code p s)) := by
  simp [exec, execSetldo, command, hb, hr, Running.instr]

theorem calafe_at (s : State) (tmo : Raw) (p : AfePos) (hb : s.busy = true) (hr : s.run = some (.calafe tmo p)) :
    exec (.calafe tmo) s = .next (resume (.calafe tmo) (.calafe tmo) (fun _ s => s.answer (.calafe tmo) 0)
      (calibrateAfe (timeoutMs tmo) id p s)) := by
  simp [exec, execCalafe, command, hb, hr, Running.instr]

theorem waitcal_at (s : State) (tmo : Raw) (p : WaitPos) (hb : s.busy = true) (hr : s.run = some (.waitcal tmo p)) :
    exec (.waitcal tmo) s = .next (resume (.waitcal tmo) (.waitcal tmo)
      (fun w s =>
        match w with
        | .success => s.answer (.waitcal tmo) CalStatus.success.word
        | .failure => s.raise (.waitcal tmo) .calibrationFailure
        | .timedOut => s.raise (.waitcal tmo) .calibrationTimeout)
      (waitCal (timeoutMs tmo) p s)) := by
  simp [exec, execWaitcal, command, hb, hr, Running.instr] <;> rfl

theorem calstat_at (s : State) (p : StatPos) (hb : s.busy = true) (hr : s.run = some (.calstat p)) :
    exec .calstat s = .next (resume .calstat .calstat (fun st s => s.answer .calstat st.word) (calStatus p s)) := by
  simp [exec, execCalstat, command, hb, hr, Running.instr]

theorem calzero_at (s : State) (n : BitVec 16) (p : AvgPos) (hb : s.busy = true) (hr : s.run = some (.calzero n p)) :
    exec (.calzero n) s = .next (resume (.calzero n) (.calzero n) (fun v s => (s.setZoff v).answer (.calzero n) v)
      (average n p s)) := by
  simp [exec, execCalzero, command, hb, hr, Running.instr]

theorem getavg_at (s : State) (n : BitVec 16) (p : AvgPos) (hb : s.busy = true) (hr : s.run = some (.getavg n p)) :
    exec (.getavg n) s = .next (resume (.getavg n) (.getavg n) (fun v s => s.answer (.getavg n) v) (average n p s)) := by
  simp [exec, execGetavg, command, hb, hr, Running.instr]

theorem getrd_at (s : State) (p : ReadPos) (hb : s.busy = true) (hr : s.run = some (.getrd p)) :
    exec .getrd s = .next (resume .getrd .getrd (fun v s => s.answer .getrd v) (getReading p s)) := by
  simp [exec, execGetrd, command, hb, hr, Running.instr]

theorem getled_at (s : State) (cl : Bool) (p : ReadPos) (hb : s.busy = true) (hr : s.run = some (.getled cl p)) :
    exec (.getled cl) s = .next (resume (.getled cl) (.getled cl) (fun v s => s.answer (.getled cl) (offsetReading s.cfg cl v s.zoff))
      (getReading p s)) := by
  simp [exec, execGetled, command, hb, hr, Running.instr]

theorem scan_lightOn (s : State) (hb : s.busy = true) (hr : s.run = some (.scan .lightOn)) :
    exec .scan s = .next (((ledSet (channelOf s.ch) true s).lit (channelOf s.ch)).goto (.scan .settle)) := by
  simp [exec, execScan, command, hb, hr, Running.instr]

theorem scan_settle (s : State) (hb : s.busy = true) (hr : s.run = some (.scan .settle)) :
    exec .scan s = .next ((delay s.cfg.settleMs s).goto (.scan (.reading .poll))) := by
  simp [exec, execScan, command, hb, hr, Running.instr]

theorem scan_reading (s : State) (p : ReadPos) (hb : s.busy = true) (hr : s.run = some (.scan (.reading p))) :
    exec .scan s = .next (resume .scan (.scan <| .reading ·)
      (fun v s => (s.gather (offsetReading s.cfg false v s.zoff)).goto (.scan .lightOff)) (getReading p s)) := by
  simp [exec, execScan, command, hb, hr, Running.instr]

theorem scan_lightOff (s : State) (hb : s.busy = true) (hr : s.run = some (.scan .lightOff)) :
    exec .scan s = .next (scanNext (ledSet (channelOf s.ch) false s).unlit) := by
  simp [exec, execScan, command, hb, hr, Running.instr]

theorem scan_abort (s : State) (c : Cause) (hb : s.busy = true) (hr : s.run = some (.scan (.abort c))) :
    exec .scan s = .next ((ledSet s.ledonIdx false s).unlit.goto (.respond (some .scan) (failResponse c))) := by
  simp [exec, execScan, command, hb, hr, Running.instr]

theorem begin_resetSet (s : State) (ldo gain rate : Byte) (p : RmwPos) (hb : s.busy = true) (hr : s.run = some (.begin ldo gain rate (.resetSet p))) :
    exec (.begin ldo gain rate) s = .next (resume (.begin ldo gain rate) (.begin ldo gain rate <| .resetSet ·)
      (fun _ s => s.goto (.begin ldo gain rate .resetHold)) (setBit s.cfg.regMap.fReset p s)) := by
  simp [exec, execBegin, command, hb, hr, Running.instr]

theorem begin_resetHold (s : State) (ldo gain rate : Byte) (hb : s.busy = true) (hr : s.run = some (.begin ldo gain rate .resetHold)) :
    exec (.begin ldo gain rate) s = .next ((delay s.cfg.resetSettleMs s).goto (.begin ldo gain rate (.resetClear .read))) := by
  simp [exec, execBegin, command, hb, hr, Running.instr]

theorem begin_resetClear (s : State) (ldo gain rate : Byte) (p : RmwPos) (hb : s.busy = true) (hr : s.run = some (.begin ldo gain rate (.resetClear p))) :
    exec (.begin ldo gain rate) s = .next (resume (.begin ldo gain rate) (.begin ldo gain rate <| .resetClear ·)
      (fun _ s => s.goto (.begin ldo gain rate .resetSettle)) (clearBit s.cfg.regMap.fReset p s)) := by
  simp [exec, execBegin, command, hb, hr, Running.instr]

theorem begin_resetSettle (s : State) (ldo gain rate : Byte) (hb : s.busy = true) (hr : s.run = some (.begin ldo gain rate .resetSettle)) :
    exec (.begin ldo gain rate) s = .next ((setCalState calReset (delay s.cfg.resetSettleMs s)).goto (.begin ldo gain rate (.pud .read))) := by
  simp [exec, execBegin, command, hb, hr, Running.instr]

theorem begin_pud (s : State) (ldo gain rate : Byte) (p : RmwPos) (hb : s.busy = true) (hr : s.run = some (.begin ldo gain rate (.pud p))) :
    exec (.begin ldo gain rate) s = .next (resume (.begin ldo gain rate) (.begin ldo gain rate <| .pud ·)
      (fun _ s => s.goto (.begin ldo gain rate (.pua .read))) (setBit s.cfg.regMap.fPud p s)) := by
  simp [exec, execBegin, command, hb, hr, Running.instr]

theorem begin_pua (s : State) (ldo gain rate : Byte) (p : RmwPos) (hb : s.busy = true) (hr : s.run = some (.begin ldo gain rate (.pua p))) :
    exec (.begin ldo gain rate) s = .next (resume (.begin ldo gain rate) (.begin ldo gain rate <| .pua ·)
      (fun _ s => s.clearPolls.goto (.begin ldo gain rate .purPoll)) (setBit s.cfg.regMap.fPua p s)) := by
  simp [exec, execBegin, command, hb, hr, Running.instr]

theorem begin_purPoll (s : State) (ldo gain rate : Byte) (hb : s.busy = true) (hr : s.run = some (.begin ldo gain rate .purPoll)) :
    exec (.begin ldo gain rate) s = .next (resume (.begin ldo gain rate) (fun _ => .begin ldo gain rate .purPause)
      (fun _ s => (setCalState calPoweredUp s).goto (.begin ldo gain rate (.ldo .read))) (powerUpPoll s)) := by
  simp [exec, execBegin, command, hb, hr, Running.instr]

theorem begin_purPause (s : State) (ldo gain rate : Byte) (hb : s.busy = true) (hr : s.run = some (.begin ldo gain rate .purPause)) :
    exec (.begin ldo gain rate) s = .next ((delay s.cfg.puPollMs s).goto (.begin ldo gain rate .purPoll)) := by
  simp [exec, execBegin, command, hb, hr, Running.instr]

theorem begin_ldo (s : State) (ldo gain rate : Byte) (p : RmwPos) (hb : s.busy = true) (hr : s.run = some (.begin ldo gain rate (.ldo p))) :
    exec (.begin ldo gain rate) s = .next (resume (.begin ldo gain rate) (.begin ldo gain rate <| .ldo ·)
      (fun _ s => s.goto (.begin ldo gain rate (.gain .read))) (writeField s.cfg.regMap.fldLdo ldo p s)) := by
  simp [exec, execBegin, command, hb, hr, Running.instr]

theorem begin_gain (s : State) (ldo gain rate : Byte) (p : RmwPos) (hb : s.busy = true) (hr : s.run = some (.begin ldo gain rate (.gain p))) :
    exec (.begin ldo gain rate) s = .next (resume (.begin ldo gain rate) (.begin ldo gain rate <| .gain ·)
      (fun _ s => s.goto (.begin ldo gain rate (.rate .read))) (writeField s.cfg.regMap.fldGain gain p s)) := by
  simp [exec, execBegin, command, hb, hr, Running.instr]

theorem begin_rate (s : State) (ldo gain rate : Byte) (p : RmwPos) (hb : s.busy = true) (hr : s.run = some (.begin ldo gain rate (.rate p))) :
    exec (.begin ldo gain rate) s = .next (resume (.begin ldo gain rate) (.begin ldo gain rate <| .rate ·)
      (fun _ s => s.goto (.begin ldo gain rate .chop)) (writeField s.cfg.regMap.fldRate rate p s)) := by
  simp [exec, execBegin, command, hb, hr, Running.instr]

theorem begin_chop (s : State) (ldo gain rate : Byte) (hb : s.busy = true)
    (hr : s.run = some (.begin ldo gain rate .chop)) :
    exec (.begin ldo gain rate) s = .next
      (if s.writeOk then
        (memWrite s.cfg.regMap.regChop s.cfg.regMap.chopValue s).2.goto (.begin ldo gain rate (.pgacap .read))
      else (memWrite s.cfg.regMap.regChop s.cfg.regMap.chopValue s).2.raise (.begin ldo gain rate) .busFault) := by
  cases hw : s.writeOk <;> simp [exec, execBegin, command, hb, hr, Running.instr, memWrite, hw]

theorem begin_pgacap (s : State) (ldo gain rate : Byte) (p : RmwPos) (hb : s.busy = true) (hr : s.run = some (.begin ldo gain rate (.pgacap p))) :
    exec (.begin ldo gain rate) s = .next (resume (.begin ldo gain rate) (.begin ldo gain rate <| .pgacap ·)
      (fun _ s => (setCalState calAnalogConfigured s).goto (.begin ldo gain rate (.afe (.start .read)))) (setBit s.cfg.regMap.fPgacap p s)) := by
  simp [exec, execBegin, command, hb, hr, Running.instr]

theorem begin_afe (s : State) (ldo gain rate : Byte) (p : AfePos) (hb : s.busy = true) (hr : s.run = some (.begin ldo gain rate (.afe p))) :
    exec (.begin ldo gain rate) s = .next (resume (.begin ldo gain rate) (.begin ldo gain rate <| .afe ·)
      (fun _ s => (setCalState calReady s).answer (.begin ldo gain rate) 0)
      (calibrateAfe (timeoutMs s.cfg.calTimeoutDefaultMs) (setCalState calCalibrating) p s)) := by
  simp [exec, execBegin, command, hb, hr, Running.instr]

/-! ## Any command -/

/-- The response of a command is due. -/
theorem exec_respond (i : Instr) (s : State) (r : Response) (hb : s.busy = true)
    (hr : s.run = some (.respond (some i) r)) : exec i s = .next (s.deliver r) := by
  cases i <;> simp only [exec, execGetbit, execSetbit, execClrbit, execDecode, execSetgain, execSetrate, execSetldo, execBegin, execCalafe,
      execWaitcal, execCalstat, execCalzero, execAvail, execGetrd, execGetavg, execGetled, execScan, execRdsr, execRdstate,
      execRdzoff] <;>
    exact command_respond _ _ _ s r hb hr

theorem command_other (i : Instr) (start : State → State) (body : Running → State → State) (s : State)
    (hb : s.busy = true) (h : ∀ r, s.run = some r → r.instr ≠ some i) : command i start body s = .next s := by
  cases hr : s.run with
  | none => simp [command, hb, hr]
  | some r =>
    have hi : r.instr ≠ some i := h r hr
    cases r <;> simp_all [command, Running.instr]

/-- A command that is not the one in execution has no effect (R22). -/
theorem exec_other (i : Instr) (s : State) (hb : s.busy = true) (h : ∀ r, s.run = some r → r.instr ≠ some i) :
    exec i s = .next s := by
  cases i <;> simp only [exec, execGetbit, execSetbit, execClrbit, execDecode, execSetgain, execSetrate, execSetldo, execBegin, execCalafe,
      execWaitcal, execCalstat, execCalzero, execAvail, execGetrd, execGetavg, execGetled, execScan, execRdsr, execRdstate,
      execRdzoff] <;>
    exact command_other _ _ _ s hb h

/-- Where a command can be when a step of it answers `t`: it is accepted, its response is due, it is at a position, or
another command is in execution. -/
theorem exec_cases {i : Instr} {s t : State} (h : exec i s = .next t) :
    s.busy = false
      ∨ (s.busy = true ∧ ∃ r, s.run = some (.respond (some i) r) ∧ t = s.deliver r)
      ∨ (s.busy = true ∧ ∃ r, s.run = some r ∧ r.instr = some i ∧ ∀ j x, r ≠ .respond j x)
      ∨ (s.busy = true ∧ t = s ∧ ∀ r, s.run = some r → r.instr ≠ some i) := by
  cases hb : s.busy with
  | false => exact .inl rfl
  | true =>
    refine .inr ?_
    by_cases hi : ∃ r, s.run = some r ∧ r.instr = some i
    · obtain ⟨r, hr, hi⟩ := hi
      by_cases hj : ∃ j x, r = .respond j x
      · obtain ⟨j, x, rfl⟩ := hj
        obtain rfl : j = some i := hi
        rw [exec_respond i s x hb hr, Host.Outcome.next.injEq] at h
        exact .inl ⟨rfl, x, hr, h.symm⟩
      · exact .inr (.inl ⟨rfl, r, hr, hi, fun j x e => hj ⟨j, x, e⟩⟩)
    · have hn : ∀ r, s.run = some r → r.instr ≠ some i := fun r hr e => hi ⟨r, hr, e⟩
      rw [exec_other i s hb hn, Host.Outcome.next.injEq] at h
      exact .inr (.inr ⟨rfl, h.symm, hn⟩)

end Sys2Proof.Machine
end

