-- ==== Sys2Proof/Laws/Encoding.lean ====
section
/-! SUPPORT. The words of commands: as numbers, and their compared bits (R66, R68). -/

namespace Sys2Proof

/-- Two bit strings side by side, as a number. -/
theorem toNat_side_by_side {m n : Nat} (x : BitVec m) (y : BitVec n) : (x ++ y).toNat = x.toNat * 2 ^ n + y.toNat := by
  rw [BitVec.toNat_append, ← Nat.shiftLeft_add_eq_or_of_lt y.isLt, Nat.shiftLeft_eq]

/-! ## The word of a command as a number: the opcode in bits 31:24, the operands below it -/

theorem encode_getbit_toNat (reg : Byte) (bit : BitVec 3) : (encode (.getbit reg bit)).toNat = 0x01 * 2 ^ 24 + reg.toNat * 2 ^ 8 + bit.toNat := by
  show (0x01#8 ++ 0#8 ++ reg ++ 0#5 ++ bit).toNat = _
  simp only [toNat_side_by_side, BitVec.toNat_ofNat]
  omega

theorem encode_setbit_toNat (reg : Byte) (bit : BitVec 3) : (encode (.setbit reg bit)).toNat = 0x02 * 2 ^ 24 + reg.toNat * 2 ^ 8 + bit.toNat := by
  show (0x02#8 ++ 0#8 ++ reg ++ 0#5 ++ bit).toNat = _
  simp only [toNat_side_by_side, BitVec.toNat_ofNat]
  omega

theorem encode_clrbit_toNat (reg : Byte) (bit : BitVec 3) : (encode (.clrbit reg bit)).toNat = 0x03 * 2 ^ 24 + reg.toNat * 2 ^ 8 + bit.toNat := by
  show (0x03#8 ++ 0#8 ++ reg ++ 0#5 ++ bit).toNat = _
  simp only [toNat_side_by_side, BitVec.toNat_ofNat]
  omega

theorem encode_decode_toNat (raw : Raw) : (encode (.decode raw)).toNat = 0x04 * 2 ^ 24 + raw.toNat := by
  show (0x04#8 ++ raw).toNat = _
  simp only [toNat_side_by_side, BitVec.toNat_ofNat]

theorem encode_setgain_toNat (code : Byte) : (encode (.setgain code)).toNat = 0x05 * 2 ^ 24 + code.toNat := by
  show (0x05#8 ++ 0#16 ++ code).toNat = _
  simp only [toNat_side_by_side, BitVec.toNat_ofNat]
  omega

theorem encode_setrate_toNat (code : Byte) : (encode (.setrate code)).toNat = 0x06 * 2 ^ 24 + code.toNat := by
  show (0x06#8 ++ 0#16 ++ code).toNat = _
  simp only [toNat_side_by_side, BitVec.toNat_ofNat]
  omega

theorem encode_setldo_toNat (code : Byte) : (encode (.setldo code)).toNat = 0x07 * 2 ^ 24 + code.toNat := by
  show (0x07#8 ++ 0#16 ++ code).toNat = _
  simp only [toNat_side_by_side, BitVec.toNat_ofNat]
  omega

theorem encode_begin_toNat (ldo gain rate : Byte) : (encode (.begin ldo gain rate)).toNat = 0x10 * 2 ^ 24 + ldo.toNat * 2 ^ 16 + gain.toNat * 2 ^ 8 + rate.toNat := by
  show (0x10#8 ++ ldo ++ gain ++ rate).toNat = _
  simp only [toNat_side_by_side, BitVec.toNat_ofNat]
  omega

theorem encode_calafe_toNat (tmo : Raw) : (encode (.calafe tmo)).toNat = 0x12 * 2 ^ 24 + tmo.toNat := by
  show (0x12#8 ++ tmo).toNat = _
  simp only [toNat_side_by_side, BitVec.toNat_ofNat]

theorem encode_waitcal_toNat (tmo : Raw) : (encode (.waitcal tmo)).toNat = 0x13 * 2 ^ 24 + tmo.toNat := by
  show (0x13#8 ++ tmo).toNat = _
  simp only [toNat_side_by_side, BitVec.toNat_ofNat]

theorem encode_calzero_toNat (n : BitVec 16) : (encode (.calzero n)).toNat = 0x15 * 2 ^ 24 + n.toNat := by
  show (0x15#8 ++ 0#8 ++ n).toNat = _
  simp only [toNat_side_by_side, BitVec.toNat_ofNat]
  omega

theorem encode_getavg_toNat (n : BitVec 16) : (encode (.getavg n)).toNat = 0x22 * 2 ^ 24 + n.toNat := by
  show (0x22#8 ++ 0#8 ++ n).toNat = _
  simp only [toNat_side_by_side, BitVec.toNat_ofNat]
  omega

theorem encode_getled_toNat (cl : Bool) : (encode (.getled cl)).toNat = 0x23 * 2 ^ 24 + cl.toNat := by
  show (0x23#8 ++ 0#23 ++ BitVec.ofBool cl).toNat = _
  simp only [toNat_side_by_side, BitVec.toNat_ofNat, BitVec.toNat_ofBool]
  omega

theorem encode_rdsr_toNat (idx : BitVec 3) : (encode (.rdsr idx)).toNat = 0x31 * 2 ^ 24 + idx.toNat := by
  show (0x31#8 ++ 0#21 ++ idx).toNat = _
  simp only [toNat_side_by_side, BitVec.toNat_ofNat]
  omega

/-! ## The compared bits of a command's word are the opcode -/

theorem encode_getbit_masked (reg : Byte) (bit : BitVec 3) : encode (.getbit reg bit) &&& Format.r.mask = 0x01#8 ++ 0#24 := by
  show (0x01#8 ++ 0#8 ++ reg ++ 0#5 ++ bit) &&& (0xFF#8 ++ 0xFF#8 ++ 0#8 ++ 31#5 ++ 0#3) = _
  simp only [BitVec.and_append, BitVec.and_zero]
  decide

theorem encode_setbit_masked (reg : Byte) (bit : BitVec 3) : encode (.setbit reg bit) &&& Format.r.mask = 0x02#8 ++ 0#24 := by
  show (0x02#8 ++ 0#8 ++ reg ++ 0#5 ++ bit) &&& (0xFF#8 ++ 0xFF#8 ++ 0#8 ++ 31#5 ++ 0#3) = _
  simp only [BitVec.and_append, BitVec.and_zero]
  decide

theorem encode_clrbit_masked (reg : Byte) (bit : BitVec 3) : encode (.clrbit reg bit) &&& Format.r.mask = 0x03#8 ++ 0#24 := by
  show (0x03#8 ++ 0#8 ++ reg ++ 0#5 ++ bit) &&& (0xFF#8 ++ 0xFF#8 ++ 0#8 ++ 31#5 ++ 0#3) = _
  simp only [BitVec.and_append, BitVec.and_zero]
  decide

theorem encode_decode_masked (raw : Raw) : encode (.decode raw) &&& Format.d.mask = 0x04#8 ++ 0#24 := by
  show (0x04#8 ++ raw) &&& (0xFF#8 ++ 0#24) = _
  simp only [BitVec.and_append, BitVec.and_zero]
  decide

theorem encode_setgain_masked (code : Byte) : encode (.setgain code) &&& Format.c.mask = 0x05#8 ++ 0#24 := by
  show (0x05#8 ++ 0#16 ++ code) &&& (0xFF#8 ++ 0xFFFF#16 ++ 0#8) = _
  simp only [BitVec.and_append, BitVec.and_zero]
  decide

theorem encode_setrate_masked (code : Byte) : encode (.setrate code) &&& Format.c.mask = 0x06#8 ++ 0#24 := by
  show (0x06#8 ++ 0#16 ++ code) &&& (0xFF#8 ++ 0xFFFF#16 ++ 0#8) = _
  simp only [BitVec.and_append, BitVec.and_zero]
  decide

theorem encode_setldo_masked (code : Byte) : encode (.setldo code) &&& Format.c.mask = 0x07#8 ++ 0#24 := by
  show (0x07#8 ++ 0#16 ++ code) &&& (0xFF#8 ++ 0xFFFF#16 ++ 0#8) = _
  simp only [BitVec.and_append, BitVec.and_zero]
  decide

theorem encode_begin_masked (ldo gain rate : Byte) : encode (.begin ldo gain rate) &&& Format.b.mask = 0x10#8 ++ 0#24 := by
  show (0x10#8 ++ ldo ++ gain ++ rate) &&& (0xFF#8 ++ 0#8 ++ 0#8 ++ 0#8) = 0x10000000#32
  simp only [BitVec.and_append, BitVec.and_zero]
  decide

theorem encode_calafe_masked (tmo : Raw) : encode (.calafe tmo) &&& Format.t.mask = 0x12#8 ++ 0#24 := by
  show (0x12#8 ++ tmo) &&& (0xFF#8 ++ 0#24) = _
  simp only [BitVec.and_append, BitVec.and_zero]
  decide

theorem encode_waitcal_masked (tmo : Raw) : encode (.waitcal tmo) &&& Format.t.mask = 0x13#8 ++ 0#24 := by
  show (0x13#8 ++ tmo) &&& (0xFF#8 ++ 0#24) = _
  simp only [BitVec.and_append, BitVec.and_zero]
  decide

theorem encode_calzero_masked (n : BitVec 16) : encode (.calzero n) &&& Format.n.mask = 0x15#8 ++ 0#24 := by
  show (0x15#8 ++ 0#8 ++ n) &&& (0xFF#8 ++ 0xFF#8 ++ 0#16) = _
  simp only [BitVec.and_append, BitVec.and_zero]
  decide

theorem encode_getavg_masked (n : BitVec 16) : encode (.getavg n) &&& Format.n.mask = 0x22#8 ++ 0#24 := by
  show (0x22#8 ++ 0#8 ++ n) &&& (0xFF#8 ++ 0xFF#8 ++ 0#16) = _
  simp only [BitVec.and_append, BitVec.and_zero]
  decide

theorem encode_getled_masked (cl : Bool) : encode (.getled cl) &&& Format.f.mask = 0x23#8 ++ 0#24 := by
  show (0x23#8 ++ 0#23 ++ BitVec.ofBool cl) &&& (0xFF#8 ++ 0x7FFFFF#23 ++ 0#1) = _
  simp only [BitVec.and_append, BitVec.and_zero]
  decide

theorem encode_rdsr_masked (idx : BitVec 3) : encode (.rdsr idx) &&& Format.i.mask = 0x31#8 ++ 0#24 := by
  show (0x31#8 ++ 0#21 ++ idx) &&& (0xFF#8 ++ 0x1FFFFF#21 ++ 0#3) = _
  simp only [BitVec.and_append, BitVec.and_zero]
  decide

end Sys2Proof
end

