-- ==== Sys2Proof/Laws/PerInstr.lean ====
section
/-! SUPPORT. One lemma per command about its encoding. -/

namespace Sys2Proof.Laws.TableRow

/-- The command has a row of R68's table whose compared bits its word carries, and whose operand fields give back the
command (R66 to R68). -/
def Statement (i : Instr) : Prop :=
  ∃ row, row ∈ opcodeTable ∧ encode i &&& row.format.mask = row.pattern ∧ row.build (encode i) = i

theorem getbit (reg : Byte) (bit : BitVec 3) : Statement (.getbit reg bit) := by
  refine ⟨⟨0x01, .r, fun cw => .getbit (byte1 cw) (low3 cw)⟩, by simp [opcodeTable], encode_getbit_masked reg bit, ?_⟩
  have h := encode_getbit_toNat reg bit
  simp only [byte1, low3, Instr.getbit.injEq]
  refine ⟨?_, ?_⟩ <;> apply BitVec.eq_of_toNat_eq
    <;> simp only [BitVec.extractLsb'_toNat, h, Nat.shiftRight_eq_div_pow] <;> omega

theorem setbit (reg : Byte) (bit : BitVec 3) : Statement (.setbit reg bit) := by
  refine ⟨⟨0x02, .r, fun cw => .setbit (byte1 cw) (low3 cw)⟩, by simp [opcodeTable], encode_setbit_masked reg bit, ?_⟩
  have h := encode_setbit_toNat reg bit
  simp only [byte1, low3, Instr.setbit.injEq]
  refine ⟨?_, ?_⟩ <;> apply BitVec.eq_of_toNat_eq
    <;> simp only [BitVec.extractLsb'_toNat, h, Nat.shiftRight_eq_div_pow] <;> omega

theorem clrbit (reg : Byte) (bit : BitVec 3) : Statement (.clrbit reg bit) := by
  refine ⟨⟨0x03, .r, fun cw => .clrbit (byte1 cw) (low3 cw)⟩, by simp [opcodeTable], encode_clrbit_masked reg bit, ?_⟩
  have h := encode_clrbit_toNat reg bit
  simp only [byte1, low3, Instr.clrbit.injEq]
  refine ⟨?_, ?_⟩ <;> apply BitVec.eq_of_toNat_eq
    <;> simp only [BitVec.extractLsb'_toNat, h, Nat.shiftRight_eq_div_pow] <;> omega

theorem decode (raw : Raw) : Statement (.decode raw) := by
  refine ⟨⟨0x04, .d, fun cw => .decode (low24 cw)⟩, by simp [opcodeTable], encode_decode_masked raw, ?_⟩
  have h := encode_decode_toNat raw
  simp only [low24, Instr.decode.injEq]
  apply BitVec.eq_of_toNat_eq
  simp only [BitVec.extractLsb'_toNat, h, Nat.shiftRight_eq_div_pow]
  omega

theorem setgain (code : Byte) : Statement (.setgain code) := by
  refine ⟨⟨0x05, .c, fun cw => .setgain (byte0 cw)⟩, by simp [opcodeTable], encode_setgain_masked code, ?_⟩
  have h := encode_setgain_toNat code
  simp only [byte0, Instr.setgain.injEq]
  apply BitVec.eq_of_toNat_eq
  simp only [BitVec.extractLsb'_toNat, h, Nat.shiftRight_eq_div_pow]
  omega

theorem setrate (code : Byte) : Statement (.setrate code) := by
  refine ⟨⟨0x06, .c, fun cw => .setrate (byte0 cw)⟩, by simp [opcodeTable], encode_setrate_masked code, ?_⟩
  have h := encode_setrate_toNat code
  simp only [byte0, Instr.setrate.injEq]
  apply BitVec.eq_of_toNat_eq
  simp only [BitVec.extractLsb'_toNat, h, Nat.shiftRight_eq_div_pow]
  omega

theorem setldo (code : Byte) : Statement (.setldo code) := by
  refine ⟨⟨0x07, .c, fun cw => .setldo (byte0 cw)⟩, by simp [opcodeTable], encode_setldo_masked code, ?_⟩
  have h := encode_setldo_toNat code
  simp only [byte0, Instr.setldo.injEq]
  apply BitVec.eq_of_toNat_eq
  simp only [BitVec.extractLsb'_toNat, h, Nat.shiftRight_eq_div_pow]
  omega

theorem begin (ldo gain rate : Byte) : Statement (.begin ldo gain rate) := by
  refine ⟨⟨0x10, .b, fun cw => .begin (byte2 cw) (byte1 cw) (byte0 cw)⟩, by simp [opcodeTable], encode_begin_masked ldo gain rate, ?_⟩
  have h := encode_begin_toNat ldo gain rate
  simp only [byte2, byte1, byte0, Instr.begin.injEq]
  refine ⟨?_, ?_, ?_⟩ <;> apply BitVec.eq_of_toNat_eq
    <;> simp only [BitVec.extractLsb'_toNat, h, Nat.shiftRight_eq_div_pow] <;> omega

theorem calafe (tmo : Raw) : Statement (.calafe tmo) := by
  refine ⟨⟨0x12, .t, fun cw => .calafe (low24 cw)⟩, by simp [opcodeTable], encode_calafe_masked tmo, ?_⟩
  have h := encode_calafe_toNat tmo
  simp only [low24, Instr.calafe.injEq]
  apply BitVec.eq_of_toNat_eq
  simp only [BitVec.extractLsb'_toNat, h, Nat.shiftRight_eq_div_pow]
  omega

theorem waitcal (tmo : Raw) : Statement (.waitcal tmo) := by
  refine ⟨⟨0x13, .t, fun cw => .waitcal (low24 cw)⟩, by simp [opcodeTable], encode_waitcal_masked tmo, ?_⟩
  have h := encode_waitcal_toNat tmo
  simp only [low24, Instr.waitcal.injEq]
  apply BitVec.eq_of_toNat_eq
  simp only [BitVec.extractLsb'_toNat, h, Nat.shiftRight_eq_div_pow]
  omega

theorem calstat : Statement .calstat := ⟨⟨0x14, .z, fun _ => .calstat⟩, by simp [opcodeTable], by decide, rfl⟩

theorem calzero (n : BitVec 16) : Statement (.calzero n) := by
  refine ⟨⟨0x15, .n, fun cw => .calzero (low16 cw)⟩, by simp [opcodeTable], encode_calzero_masked n, ?_⟩
  have h := encode_calzero_toNat n
  simp only [low16, Instr.calzero.injEq]
  apply BitVec.eq_of_toNat_eq
  simp only [BitVec.extractLsb'_toNat, h, Nat.shiftRight_eq_div_pow]
  omega

theorem avail : Statement .avail := ⟨⟨0x20, .z, fun _ => .avail⟩, by simp [opcodeTable], by decide, rfl⟩

theorem getrd : Statement .getrd := ⟨⟨0x21, .z, fun _ => .getrd⟩, by simp [opcodeTable], by decide, rfl⟩

theorem getavg (n : BitVec 16) : Statement (.getavg n) := by
  refine ⟨⟨0x22, .n, fun cw => .getavg (low16 cw)⟩, by simp [opcodeTable], encode_getavg_masked n, ?_⟩
  have h := encode_getavg_toNat n
  simp only [low16, Instr.getavg.injEq]
  apply BitVec.eq_of_toNat_eq
  simp only [BitVec.extractLsb'_toNat, h, Nat.shiftRight_eq_div_pow]
  omega

theorem getled (cl : Bool) : Statement (.getled cl) :=
  ⟨⟨0x23, .f, fun cw => .getled (low1 cw)⟩, by simp [opcodeTable], encode_getled_masked cl, by cases cl <;> rfl⟩

theorem scan : Statement .scan := ⟨⟨0x30, .z, fun _ => .scan⟩, by simp [opcodeTable], by decide, rfl⟩

theorem rdsr (idx : BitVec 3) : Statement (.rdsr idx) := by
  refine ⟨⟨0x31, .i, fun cw => .rdsr (low3 cw)⟩, by simp [opcodeTable], encode_rdsr_masked idx, ?_⟩
  have h := encode_rdsr_toNat idx
  simp only [low3, Instr.rdsr.injEq]
  apply BitVec.eq_of_toNat_eq
  simp only [BitVec.extractLsb'_toNat, h, Nat.shiftRight_eq_div_pow]
  omega

theorem rdstate : Statement .rdstate := ⟨⟨0x32, .z, fun _ => .rdstate⟩, by simp [opcodeTable], by decide, rfl⟩

theorem rdzoff : Statement .rdzoff := ⟨⟨0x33, .z, fun _ => .rdzoff⟩, by simp [opcodeTable], by decide, rfl⟩

end Sys2Proof.Laws.TableRow
end

