-- ==== Sys2Proof/Laws/Play.lean ====
section
/-! SUPPORT. Interactions in a row: a state that has done some actions, and what each further interaction makes of it. -/

namespace Sys2Proof.Machine

@[simp] theorem play_nil (s : State) : s.play [] = ⟨0, s.now, s.dev, []⟩ := rfl

theorem play_snoc (s : State) (acts : List Act) (a : Act) : s.play (acts ++ [a]) = (s.play acts).act s a := by
  simp [State.play]

theorem play_append (s : State) (acts more : List Act) :
    s.play (acts ++ more) = more.foldl (Play.act s) (s.play acts) := by simp [State.play]

/-- State `u` stands where the actions of `p` have led from `s`, the events before them being `base`. -/
structure Stands (s : State) (base : List Event) (p : Play) (u : State) : Prop where
  moves : ∀ j, u.moveAt j = s.moveAt (p.count + j)
  now : u.now = p.now
  dev : u.dev = p.dev
  trace : u.trace = p.events ++ base
  cfg : u.cfg = s.cfg

theorem stands_start (s : State) : Stands s s.trace (s.play []) s := ⟨fun j => by simp, rfl, rfl, rfl, rfl⟩

theorem stands_accept (s : State) (cw : Word) : Stands s (.accept cw :: s.trace) (s.play []) (s.accept cw) :=
  ⟨fun j => by simp, rfl, rfl, rfl, rfl⟩

section
variable {s u u' : State} {base : List Event} {p : Play}

/-- Updates of the block's own registers do not move it. -/
theorem Stands.congr (h : Stands s base p u) (hm : ∀ j, u'.moveAt j = u.moveAt j) (hn : u'.now = u.now)
    (hd : u'.dev = u.dev) (ht : u'.trace = u.trace) (hc : u'.cfg = u.cfg) : Stands s base p u' :=
  ⟨fun j => (hm j).trans (h.moves j), hn.trans h.now, hd.trans h.dev, ht.trans h.trace, hc.trans h.cfg⟩

theorem Stands.goto (h : Stands s base p u) (r : Running) : Stands s base p (u.goto r) :=
  h.congr (fun _ => rfl) rfl rfl rfl rfl

/-- The move of the next interaction. -/
theorem Stands.nextMove (h : Stands s base p u) : u.moveAt 0 = s.moveAt p.count := by simpa using h.moves 0

/-- The device at the next interaction. -/
theorem Stands.devAfter_one (h : Stands s base p u) : u.devAfter 1 = p.devNext s := by
  simp only [State.devAfter, Play.devNext, h.dev, h.nextMove]

/-- What a read would answer. -/
theorem Stands.byteAt_zero (h : Stands s base p u) (reg : Byte) : u.byteAt 0 reg = Memory.read (p.devNext s) reg := by
  rw [State.byteAt, h.devAfter_one]

/-- What a read of a bit would answer. -/
theorem Stands.bitAt_zero {acts : List Act} (h : Stands s base (s.play acts) u) (f : BitField) :
    u.bitAt 0 f = s.sees acts f := by rw [State.bitAt, h.byteAt_zero, State.sees]

/-- One interaction: `u'` is `u` after a move, one more event, and what the interaction makes of the device. -/
theorem Stands.interact (h : Stands s base p u) (least : Word) (e : Memory → Word → Event) (after : Memory → Memory)
    (hm : ∀ j, u'.moveAt j = u.moveAt (j + 1)) (hn : u'.now = (u.environ least).now)
    (hd : u'.dev = after (u.devAfter 1)) (ht : u'.trace = e (u.devAfter 1) u'.now :: u.trace) (hc : u'.cfg = u.cfg) :
    Stands s base (p.interact s least e after) u' := by
  have hnow : u'.now = (p.interact s least e after).now := by
    rw [hn]
    simp only [State.environ, nextMove_eq, h.cfg, h.now, h.nextMove, Play.interact]
  refine ⟨fun j => ?_, hnow, ?_, ?_, hc.trans h.cfg⟩
  · rw [hm, h.moves]
    simp only [Play.interact, Nat.add_assoc, Nat.add_comm 1 j]
  · rw [hd, h.devAfter_one]; rfl
  · rw [ht, hnow, h.trace, h.devAfter_one]; rfl

theorem Stands.look (h : Stands s base p u) (reg : Byte) :
    Stands s base (p.act s (.look reg)) ((u.environ 0).log (.rd u.cfg.devAddr reg (some (u.byteAt 0 reg)))) :=
  h.interact 0 (fun d _ => .rd s.cfg.devAddr reg (some (Memory.read d reg))) id (fun j => by simp) rfl rfl
    (by rw [← h.cfg]; rfl) rfl

theorem Stands.wait (h : Stands s base p u) (k : Word) : Stands s base (p.act s (.wait k)) (delay k u) :=
  h.interact k (fun _ _ => .delay k) id (fun j => moveAt_environ u k j) rfl rfl rfl rfl

theorem Stands.time (h : Stands s base p u) : Stands s base (p.act s .time) (readNow u) :=
  h.interact 0 (fun _ now => .now now) id (fun j => moveAt_environ u 0 j) rfl rfl rfl rfl

theorem Stands.reply (h : Stands s base p u) (r : Response) : Stands s base (p.act s (.reply r)) (u.deliver r) :=
  h.interact 0 (fun _ _ => .resp r) id (fun j => moveAt_environ u 0 j) rfl rfl rfl rfl

/-- A write that does not fault. -/
theorem Stands.write (h : Stands s base p u) (reg v : Byte) (hf : (u.moveAt 0).busFault = none) :
    Stands s base (p.interact s 0 (fun _ _ => .wr s.cfg.devAddr reg v true) (fun d => Memory.write d reg v))
      (memWrite reg v u).2 := by
  have hw : u.writeOk = true := (writeOk_iff u).mpr hf
  have hb : u.writtenByte v = v := by simp [State.writtenByte, nextMove_eq, hf]
  refine h.interact 0 _ _ (fun j => moveAt_environ u 0 j) rfl ?_ ?_ rfl
  · simp only [memWrite, hb]; rfl
  · simp only [memWrite, hw, ← h.cfg]; rfl

theorem Stands.store (h : Stands s base p u) (reg v : Byte) (hf : (u.moveAt 0).busFault = none) :
    Stands s base (p.act s (.store reg v)) (memWrite reg v u).2 := h.write reg v hf

/-- A read-modify-write that does not fault: after its read, then after its write. -/
theorem Stands.modify (h : Stands s base p u) (reg : Byte) (change : Byte → Byte)
    (hf : ((u.environ 0).moveAt 0).busFault = none) (r : Running) :
    Stands s base (p.act s (.modify reg change))
      (memWrite reg (change (u.byteAt 0 reg))
        (((u.environ 0).log (.rd u.cfg.devAddr reg (some (u.byteAt 0 reg)))).goto r)).2 := by
  have h1 : Stands s base (p.interact s 0 (fun _ _ => .rd s.cfg.devAddr reg (some (Memory.read (p.devNext s) reg))) id)
      (((u.environ 0).log (.rd u.cfg.devAddr reg (some (u.byteAt 0 reg)))).goto r) := (h.look reg).goto r
  have h2 := h1.write reg (change (u.byteAt 0 reg)) (by simpa using hf)
  rw [h.byteAt_zero] at h2 ⊢
  exact h2

end

end Sys2Proof.Machine
end

