-- ==== Sys2Proof/Laws/Steps.lean ====
section
/-! SUPPORT. Everything a step of a command can do, said once: `ExecStep` has one constructor per outcome of an
interaction, and `exec i s = .next t` exactly when one of them holds. A proof about every command is a case analysis of
it. Positions inside a shared procedure are described by what the procedure is used for there. -/

namespace Sys2Proof.Machine

/-! ## What a shared procedure is used for at a position -/

/-- A read-modify-write a command stands in (R91, R92): the command, its place, the register, the change, the position
it goes on at and what follows it. -/
structure RmwAt where
  instr : Instr
  pos : RmwPos
  reg : Byte
  change : Byte → Byte
  back : RmwPos → Running
  rest : State → State

/-- `SetBit(f)` as such a use. -/
def RmwAt.set (i : Instr) (f : BitField) (p : RmwPos) (back : RmwPos → Running) (rest : State → State) : RmwAt :=
  ⟨i, p, f.reg, withBit f.bit, back, rest⟩

/-- `WriteField(f, code)` as such a use. -/
def RmwAt.field (cfg : Config) (i : Instr) (f : Field3) (code : Byte) (p : RmwPos) (back : RmwPos → Running)
    (rest : State → State) : RmwAt :=
  ⟨i, p, f.reg, withField f.lsb (clamp3 cfg code), back, rest⟩

/-- The read-modify-write of a position, if it is in one. -/
def Running.rmw (cfg : Config) : Running → Option RmwAt
  | .setbit reg bit p => some (.set (.setbit reg bit) ⟨reg, bit⟩ p (.setbit reg bit) (·.answer (.setbit reg bit) 0))
  | .clrbit reg bit p =>
    some ⟨.clrbit reg bit, p, reg, withoutBit bit, .clrbit reg bit, (·.answer (.clrbit reg bit) 0)⟩
  | .setgain code p =>
    some (.field cfg (.setgain code) cfg.regMap.fldGain code p (.setgain code)
      (fun s => s.answer (.setgain code) (codeWord s.cfg code)))
  | .setrate code p =>
    some (.field cfg (.setrate code) cfg.regMap.fldRate code p (.setrate code)
      (fun s => s.answer (.setrate code) (codeWord s.cfg code)))
  | .setldo code p =>
    some (.field cfg (.setldo code) cfg.regMap.fldLdo code p (.setldo code)
      (fun s => s.answer (.setldo code) (codeWord s.cfg code)))
  | .begin l g r (.resetSet p) =>
    some (.set (.begin l g r) cfg.regMap.fReset p (.begin l g r <| .resetSet ·) (·.goto (.begin l g r .resetHold)))
  | .begin l g r (.resetClear p) =>
    some ⟨.begin l g r, p, cfg.regMap.fReset.reg, withoutBit cfg.regMap.fReset.bit, (.begin l g r <| .resetClear ·),
      (·.goto (.begin l g r .resetSettle))⟩
  | .begin l g r (.pud p) =>
    some (.set (.begin l g r) cfg.regMap.fPud p (.begin l g r <| .pud ·) (·.goto (.begin l g r (.pua .read))))
  | .begin l g r (.pua p) =>
    some (.set (.begin l g r) cfg.regMap.fPua p (.begin l g r <| .pua ·) (·.clearPolls.goto (.begin l g r .purPoll)))
  | .begin l g r (.ldo p) =>
    some (.field cfg (.begin l g r) cfg.regMap.fldLdo l p (.begin l g r <| .ldo ·) (·.goto (.begin l g r (.gain .read))))
  | .begin l g r (.gain p) =>
    some (.field cfg (.begin l g r) cfg.regMap.fldGain g p (.begin l g r <| .gain ·)
      (·.goto (.begin l g r (.rate .read))))
  | .begin l g r (.rate p) =>
    some (.field cfg (.begin l g r) cfg.regMap.fldRate r p (.begin l g r <| .rate ·) (·.goto (.begin l g r .chop)))
  | .begin l g r (.pgacap p) =>
    some (.set (.begin l g r) cfg.regMap.fPgacap p (.begin l g r <| .pgacap ·)
      (fun s => (setCalState calAnalogConfigured s).goto (.begin l g r (.afe (.start .read)))))
  | .begin l g r (.afe (.start p)) =>
    some (.set (.begin l g r) cfg.regMap.fCals p (.begin l g r <| .afe <| .start ·)
      (fun s => (setCalState calCalibrating s).goto (.begin l g r (.afe (.wait .stamp)))))
  | .begin l g r (.afe (.convert p)) =>
    some (.set (.begin l g r) cfg.regMap.fCs p (.begin l g r <| .afe <| .convert ·)
      (fun s => (setCalState calReady s).answer (.begin l g r) 0))
  | .calafe tmo (.start p) =>
    some (.set (.calafe tmo) cfg.regMap.fCals p (.calafe tmo <| .start ·) (·.goto (.calafe tmo (.wait .stamp))))
  | .calafe tmo (.convert p) =>
    some (.set (.calafe tmo) cfg.regMap.fCs p (.calafe tmo <| .convert ·) (·.answer (.calafe tmo) 0))
  | _ => none

/-- A wait for the calibration a command stands in (R114). -/
structure WaitAt where
  instr : Instr
  pos : WaitPos
  timeout : Int
  back : WaitPos → Running
  rest : State → State

/-- The wait of a position, if it is in one. -/
def Running.waiting (cfg : Config) : Running → Option WaitAt
  | .waitcal tmo p =>
    some ⟨.waitcal tmo, p, timeoutMs tmo, .waitcal tmo, (·.answer (.waitcal tmo) CalStatus.success.word)⟩
  | .calafe tmo (.wait p) =>
    some ⟨.calafe tmo, p, timeoutMs tmo, (.calafe tmo <| .wait ·), (·.goto (.calafe tmo (.convert .read)))⟩
  | .begin l g r (.afe (.wait p)) =>
    some ⟨.begin l g r, p, timeoutMs cfg.calTimeoutDefaultMs, (.begin l g r <| .afe <| .wait ·),
      (·.goto (.begin l g r (.afe (.convert .read))))⟩
  | _ => none

/-- A reading a command stands in (R138). -/
structure ReadingAt where
  instr : Instr
  pos : ReadPos
  back : ReadPos → Running
  rest : Word → State → State

/-- The reading of a position, if it is in one. -/
def Running.gettingReading : Running → Option ReadingAt
  | .getrd p => some ⟨.getrd, p, .getrd, fun v s => s.answer .getrd v⟩
  | .getled cl p => some ⟨.getled cl, p, .getled cl, fun v s => s.answer (.getled cl) (offsetReading s.cfg cl v s.zoff)⟩
  | .scan (.reading p) =>
    some ⟨.scan, p, (.scan <| .reading ·), fun v s => (s.gather (offsetReading s.cfg false v s.zoff)).goto (.scan .lightOff)⟩
  | _ => none

/-- A mean a command stands in (R139). -/
structure AverageAt where
  instr : Instr
  count : BitVec 16
  pos : AvgPos
  back : AvgPos → Running
  rest : Word → State → State

/-- The mean of a position, if it is in one. -/
def Running.averaging : Running → Option AverageAt
  | .getavg n p => some ⟨.getavg n, n, p, .getavg n, fun v s => s.answer (.getavg n) v⟩
  | .calzero n p => some ⟨.calzero n, n, p, .calzero n, fun v s => (s.setZoff v).answer (.calzero n) v⟩
  | _ => none

/-- What a command does when it is accepted, before its first interaction. -/
def startOf (i : Instr) (s : State) : State :=
  match i with
  | .getbit reg bit => s.goto (.getbit reg bit)
  | .setbit reg bit => s.goto (.setbit reg bit .read)
  | .clrbit reg bit => s.goto (.clrbit reg bit .read)
  | .decode raw =>
    s.answer (.decode raw) (decodeSample s.cfg (raw.extractLsb' 16 8) (raw.extractLsb' 8 8) (raw.extractLsb' 0 8))
  | .setgain code => s.goto (.setgain code .read)
  | .setrate code => s.goto (.setrate code .read)
  | .setldo code => s.goto (.setldo code .read)
  | .begin l g r => s.uninitialize.goto (.begin l g r (.resetSet .read))
  | .calafe tmo => s.goto (.calafe tmo (.start .read))
  | .waitcal tmo => s.goto (.waitcal tmo .stamp)
  | .calstat => s.goto (.calstat .startBit)
  | .calzero n =>
    if countFits s.cfg n then s.goto (.calzero n .stamp)
    else s.goto (.respond (some (.calzero n)) (failResponse .illegalOperand))
  | .avail => s.goto .avail
  | .getrd => s.goto (.getrd .poll)
  | .getavg n =>
    if countFits s.cfg n then s.goto (.getavg n .stamp)
    else s.goto (.respond (some (.getavg n)) (failResponse .illegalOperand))
  | .getled cl => s.goto (.getled cl .poll)
  | .scan => s.startScan.goto (.scan .lightOn)
  | .rdsr idx =>
    if s.srv then s.answer (.rdsr idx) (resultAt s.sr idx)
    else s.goto (.respond (some (.rdsr idx)) (failResponse .noData))
  | .rdstate => s.answer .rdstate (stateWord s)
  | .rdzoff => s.answer .rdzoff s.zoff

/-! ## The outcomes of an interaction -/

/-- A bus read that answered. -/
def State.heard (s : State) (a : Byte) : State := (s.environ 0).log (.rd s.cfg.devAddr a (some (s.byteAt 0 a)))

/-- A bus read that faulted. -/
def State.missed (s : State) (a : Byte) : State := (s.environ 0).log (.rd s.cfg.devAddr a none)

/-- No bus interaction faults now. -/
def State.fine (s : State) : Prop := (s.moveAt 0).busFault = none

/-- A bus interaction faults now. -/
def State.bad (s : State) : Prop := (s.moveAt 0).busFault.isSome = true

/-- Everything a step of command `i` can do. -/
inductive ExecStep (i : Instr) (s : State) : State → Prop where
  | accepted (hb : s.busy = false) : ExecStep i s (startOf i (s.accept (encode i)))
  | respond (hb : s.busy = true) (r : Response) (hr : s.run = some (.respond (some i) r)) : ExecStep i s (s.deliver r)
  | other (hb : s.busy = true) (hr : ∀ r, s.run = some r → r.instr ≠ some i) : ExecStep i s s
  | rmwRead (hb : s.busy = true) (r : Running) (hr : s.run = some r) (m : RmwAt) (hv : r.rmw s.cfg = some m)
      (hi : m.instr = i) (hp : m.pos = .read) (hm : s.fine) :
      ExecStep i s ((s.heard m.reg).goto (m.back (.write (m.change (s.byteAt 0 m.reg)))))
  | rmwReadFault (hb : s.busy = true) (r : Running) (hr : s.run = some r) (m : RmwAt) (hv : r.rmw s.cfg = some m)
      (hi : m.instr = i) (hp : m.pos = .read) (hm : s.bad) : ExecStep i s ((s.missed m.reg).raise i .busFault)
  | rmwWrite (hb : s.busy = true) (r : Running) (hr : s.run = some r) (m : RmwAt) (hv : r.rmw s.cfg = some m)
      (hi : m.instr = i) (v : Byte) (hp : m.pos = .write v) (hm : s.fine) :
      ExecStep i s (m.rest (memWrite m.reg v s).2)
  | rmwWriteFault (hb : s.busy = true) (r : Running) (hr : s.run = some r) (m : RmwAt) (hv : r.rmw s.cfg = some m)
      (hi : m.instr = i) (v : Byte) (hp : m.pos = .write v) (hm : s.bad) :
      ExecStep i s ((memWrite m.reg v s).2.raise i .busFault)
  | waitStamp (hb : s.busy = true) (r : Running) (hr : s.run = some r) (m : WaitAt) (hv : r.waiting s.cfg = some m)
      (hi : m.instr = i) (hp : m.pos = .stamp) :
      ExecStep i s ((readNow s).stamp.goto (m.back (.stat .startBit)))
  | waitBusy (hb : s.busy = true) (r : Running) (hr : s.run = some r) (m : WaitAt) (hv : r.waiting s.cfg = some m)
      (hi : m.instr = i) (hp : m.pos = .stat .startBit) (hm : s.fine) (hc : s.bitAt 0 s.cfg.regMap.fCals = true) :
      ExecStep i s ((s.heard s.cfg.regMap.fCals.reg).goto (m.back (if 0 < m.timeout then .clock else .pause)))
  | waitEnded (hb : s.busy = true) (r : Running) (hr : s.run = some r) (m : WaitAt) (hv : r.waiting s.cfg = some m)
      (hi : m.instr = i) (hp : m.pos = .stat .startBit) (hm : s.fine) (hc : s.bitAt 0 s.cfg.regMap.fCals = false) :
      ExecStep i s ((s.heard s.cfg.regMap.fCals.reg).goto (m.back (.stat .errorBit)))
  | waitStartFault (hb : s.busy = true) (r : Running) (hr : s.run = some r) (m : WaitAt) (hv : r.waiting s.cfg = some m)
      (hi : m.instr = i) (hp : m.pos = .stat .startBit) (hm : s.bad) :
      ExecStep i s ((s.missed s.cfg.regMap.fCals.reg).raise i .busFault)
  | waitFailure (hb : s.busy = true) (r : Running) (hr : s.run = some r) (m : WaitAt) (hv : r.waiting s.cfg = some m)
      (hi : m.instr = i) (hp : m.pos = .stat .errorBit) (hm : s.fine) (hc : s.bitAt 0 s.cfg.regMap.fCalerr = true) :
      ExecStep i s ((s.heard s.cfg.regMap.fCalerr.reg).raise i .calibrationFailure)
  | waitSuccess (hb : s.busy = true) (r : Running) (hr : s.run = some r) (m : WaitAt) (hv : r.waiting s.cfg = some m)
      (hi : m.instr = i) (hp : m.pos = .stat .errorBit) (hm : s.fine) (hc : s.bitAt 0 s.cfg.regMap.fCalerr = false) :
      ExecStep i s (m.rest (s.heard s.cfg.regMap.fCalerr.reg))
  | waitErrorFault (hb : s.busy = true) (r : Running) (hr : s.run = some r) (m : WaitAt) (hv : r.waiting s.cfg = some m)
      (hi : m.instr = i) (hp : m.pos = .stat .errorBit) (hm : s.bad) :
      ExecStep i s ((s.missed s.cfg.regMap.fCalerr.reg).raise i .busFault)
  | waitTimedOut (hb : s.busy = true) (r : Running) (hr : s.run = some r) (m : WaitAt) (hv : r.waiting s.cfg = some m)
      (hi : m.instr = i) (hp : m.pos = .clock) (ht : 0 < m.timeout)
      (he : m.timeout < (elapsedSince s.t0 (s.environ 0).now).toNat) :
      ExecStep i s ((readNow s).raise i .calibrationTimeout)
  | waitInTime (hb : s.busy = true) (r : Running) (hr : s.run = some r) (m : WaitAt) (hv : r.waiting s.cfg = some m)
      (hi : m.instr = i) (hp : m.pos = .clock)
      (he : ¬ (0 < m.timeout ∧ m.timeout < (elapsedSince s.t0 (s.environ 0).now).toNat)) :
      ExecStep i s ((readNow s).goto (m.back .pause))
  | waitPause (hb : s.busy = true) (r : Running) (hr : s.run = some r) (m : WaitAt) (hv : r.waiting s.cfg = some m)
      (hi : m.instr = i) (hp : m.pos = .pause) :
      ExecStep i s ((delay s.cfg.calPollMs s).goto (m.back (.stat .startBit)))
  | pollReading (hb : s.busy = true) (r : Running) (hr : s.run = some r) (m : ReadingAt) (hv : r.gettingReading = some m)
      (hi : m.instr = i) (hp : m.pos = .poll) (hm : s.fine) :
      ExecStep i s
        ((s.heard s.cfg.regMap.fCr.reg).goto (m.back (if s.bitAt 0 s.cfg.regMap.fCr then .sample else .pause)))
  | pollReadingFault (hb : s.busy = true) (r : Running) (hr : s.run = some r) (m : ReadingAt)
      (hv : r.gettingReading = some m) (hi : m.instr = i) (hp : m.pos = .poll) (hm : s.bad) :
      ExecStep i s ((s.missed s.cfg.regMap.fCr.reg).raise i .busFault)
  | sampleReading (hb : s.busy = true) (r : Running) (hr : s.run = some r) (m : ReadingAt)
      (hv : r.gettingReading = some m) (hi : m.instr = i) (hp : m.pos = .sample) (hm : s.fine) :
      ExecStep i s (m.rest (s.sampleAt 0) (readSample s).2)
  | sampleReadingFault (hb : s.busy = true) (r : Running) (hr : s.run = some r) (m : ReadingAt)
      (hv : r.gettingReading = some m) (hi : m.instr = i) (hp : m.pos = .sample) (hm : s.bad) :
      ExecStep i s ((readSample s).2.raise i .busFault)
  | pauseReading (hb : s.busy = true) (r : Running) (hr : s.run = some r) (m : ReadingAt)
      (hv : r.gettingReading = some m) (hi : m.instr = i) (hp : m.pos = .pause) :
      ExecStep i s ((delay s.cfg.rdPollMs s).goto (m.back .poll))
  | averageStamp (hb : s.busy = true) (r : Running) (hr : s.run = some r) (m : AverageAt) (hv : r.averaging = some m)
      (hi : m.instr = i) (hp : m.pos = .stamp) : ExecStep i s ((readNow s).stamp.clearSum.goto (m.back .poll))
  | averagePoll (hb : s.busy = true) (r : Running) (hr : s.run = some r) (m : AverageAt) (hv : r.averaging = some m)
      (hi : m.instr = i) (hp : m.pos = .poll) (hm : s.fine) :
      ExecStep i s
        ((s.heard s.cfg.regMap.fCr.reg).goto (m.back (if s.bitAt 0 s.cfg.regMap.fCr then .sample else .clock)))
  | averagePollFault (hb : s.busy = true) (r : Running) (hr : s.run = some r) (m : AverageAt) (hv : r.averaging = some m)
      (hi : m.instr = i) (hp : m.pos = .poll) (hm : s.bad) :
      ExecStep i s ((s.missed s.cfg.regMap.fCr.reg).raise i .busFault)
  | averageLast (hb : s.busy = true) (r : Running) (hr : s.run = some r) (m : AverageAt) (hv : r.averaging = some m)
      (hi : m.instr = i) (hp : m.pos = .sample) (hm : s.fine) (hk : s.k + 1 = m.count) :
      ExecStep i s
        (m.rest (meanOf s.cfg (accumulate s.acc (s.sampleAt 0)) m.count) ((readSample s).2.addSample (s.sampleAt 0)))
  | averageMore (hb : s.busy = true) (r : Running) (hr : s.run = some r) (m : AverageAt) (hv : r.averaging = some m)
      (hi : m.instr = i) (hp : m.pos = .sample) (hm : s.fine) (hk : s.k + 1 ≠ m.count) :
      ExecStep i s (((readSample s).2.addSample (s.sampleAt 0)).goto (m.back .clock))
  | averageSampleFault (hb : s.busy = true) (r : Running) (hr : s.run = some r) (m : AverageAt)
      (hv : r.averaging = some m) (hi : m.instr = i) (hp : m.pos = .sample) (hm : s.bad) :
      ExecStep i s ((readSample s).2.raise i .busFault)
  | averageTimedOut (hb : s.busy = true) (r : Running) (hr : s.run = some r) (m : AverageAt) (hv : r.averaging = some m)
      (hi : m.instr = i) (hp : m.pos = .clock) (he : s.cfg.avgBudgetMs < elapsedSince s.t0 (s.environ 0).now) :
      ExecStep i s ((readNow s).raise i .sampleTimeout)
  | averageInTime (hb : s.busy = true) (r : Running) (hr : s.run = some r) (m : AverageAt) (hv : r.averaging = some m)
      (hi : m.instr = i) (hp : m.pos = .clock) (he : ¬ s.cfg.avgBudgetMs < elapsedSince s.t0 (s.environ 0).now) :
      ExecStep i s ((readNow s).goto (m.back .pause))
  | averagePause (hb : s.busy = true) (r : Running) (hr : s.run = some r) (m : AverageAt) (hv : r.averaging = some m)
      (hi : m.instr = i) (hp : m.pos = .pause) : ExecStep i s ((delay s.cfg.avgPollMs s).goto (m.back .poll))
  | getbit (hb : s.busy = true) (reg : Byte) (bit : BitVec 3) (hr : s.run = some (.getbit reg bit))
      (hi : i = .getbit reg bit) (hm : s.fine) :
      ExecStep i s ((s.heard reg).answer i (boolWord (s.bitAt 0 ⟨reg, bit⟩)))
  | getbitFault (hb : s.busy = true) (reg : Byte) (bit : BitVec 3) (hr : s.run = some (.getbit reg bit))
      (hi : i = .getbit reg bit) (hm : s.bad) : ExecStep i s ((s.missed reg).raise i .busFault)
  | avail (hb : s.busy = true) (hr : s.run = some .avail) (hi : i = .avail) (hm : s.fine) :
      ExecStep i s ((s.heard s.cfg.regMap.fCr.reg).answer i (boolWord (s.bitAt 0 s.cfg.regMap.fCr)))
  | availFault (hb : s.busy = true) (hr : s.run = some .avail) (hi : i = .avail) (hm : s.bad) :
      ExecStep i s ((s.missed s.cfg.regMap.fCr.reg).raise i .busFault)
  | calstatBusy (hb : s.busy = true) (hr : s.run = some (.calstat .startBit)) (hi : i = .calstat) (hm : s.fine)
      (hc : s.bitAt 0 s.cfg.regMap.fCals = true) :
      ExecStep i s ((s.heard s.cfg.regMap.fCals.reg).answer i CalStatus.inProgress.word)
  | calstatEnded (hb : s.busy = true) (hr : s.run = some (.calstat .startBit)) (hi : i = .calstat) (hm : s.fine)
      (hc : s.bitAt 0 s.cfg.regMap.fCals = false) :
      ExecStep i s ((s.heard s.cfg.regMap.fCals.reg).goto (.calstat .errorBit))
  | calstatStartFault (hb : s.busy = true) (hr : s.run = some (.calstat .startBit)) (hi : i = .calstat) (hm : s.bad) :
      ExecStep i s ((s.missed s.cfg.regMap.fCals.reg).raise i .busFault)
  | calstatResult (hb : s.busy = true) (hr : s.run = some (.calstat .errorBit)) (hi : i = .calstat) (hm : s.fine) :
      ExecStep i s ((s.heard s.cfg.regMap.fCalerr.reg).answer i
        (if s.bitAt 0 s.cfg.regMap.fCalerr then CalStatus.failure else CalStatus.success).word)
  | calstatErrorFault (hb : s.busy = true) (hr : s.run = some (.calstat .errorBit)) (hi : i = .calstat) (hm : s.bad) :
      ExecStep i s ((s.missed s.cfg.regMap.fCalerr.reg).raise i .busFault)
  | beginHold (hb : s.busy = true) (l g x : Byte) (hr : s.run = some (.begin l g x .resetHold)) (hi : i = .begin l g x) :
      ExecStep i s ((delay s.cfg.resetSettleMs s).goto (.begin l g x (.resetClear .read)))
  | beginSettle (hb : s.busy = true) (l g x : Byte) (hr : s.run = some (.begin l g x .resetSettle))
      (hi : i = .begin l g x) :
      ExecStep i s ((setCalState calReset (delay s.cfg.resetSettleMs s)).goto (.begin l g x (.pud .read)))
  | beginPowered (hb : s.busy = true) (l g x : Byte) (hr : s.run = some (.begin l g x .purPoll)) (hi : i = .begin l g x)
      (hm : s.fine) (hp : s.bitAt 0 s.cfg.regMap.fPur = true) :
      ExecStep i s ((setCalState calPoweredUp (s.heard s.cfg.regMap.fPur.reg).countPoll).goto (.begin l g x (.ldo .read)))
  | beginUnpowered (hb : s.busy = true) (l g x : Byte) (hr : s.run = some (.begin l g x .purPoll))
      (hi : i = .begin l g x) (hm : s.fine) (hp : s.bitAt 0 s.cfg.regMap.fPur = false)
      (hk : s.iter + 1 = s.cfg.puPollMax) :
      ExecStep i s ((s.heard s.cfg.regMap.fPur.reg).countPoll.raise i .powerUpTimeout)
  | beginPollAgain (hb : s.busy = true) (l g x : Byte) (hr : s.run = some (.begin l g x .purPoll))
      (hi : i = .begin l g x) (hm : s.fine) (hp : s.bitAt 0 s.cfg.regMap.fPur = false)
      (hk : s.iter + 1 ≠ s.cfg.puPollMax) :
      ExecStep i s ((s.heard s.cfg.regMap.fPur.reg).countPoll.goto (.begin l g x .purPause))
  | beginPollFault (hb : s.busy = true) (l g x : Byte) (hr : s.run = some (.begin l g x .purPoll))
      (hi : i = .begin l g x) (hm : s.bad) : ExecStep i s ((s.missed s.cfg.regMap.fPur.reg).raise i .busFault)
  | beginPause (hb : s.busy = true) (l g x : Byte) (hr : s.run = some (.begin l g x .purPause)) (hi : i = .begin l g x) :
      ExecStep i s ((delay s.cfg.puPollMs s).goto (.begin l g x .purPoll))
  | beginChop (hb : s.busy = true) (l g x : Byte) (hr : s.run = some (.begin l g x .chop)) (hi : i = .begin l g x)
      (hm : s.fine) :
      ExecStep i s ((memWrite s.cfg.regMap.regChop s.cfg.regMap.chopValue s).2.goto (.begin l g x (.pgacap .read)))
  | beginChopFault (hb : s.busy = true) (l g x : Byte) (hr : s.run = some (.begin l g x .chop)) (hi : i = .begin l g x)
      (hm : s.bad) : ExecStep i s ((memWrite s.cfg.regMap.regChop s.cfg.regMap.chopValue s).2.raise i .busFault)
  | scanOn (hb : s.busy = true) (hr : s.run = some (.scan .lightOn)) (hi : i = .scan) :
      ExecStep i s (((ledSet (channelOf s.ch) true s).lit (channelOf s.ch)).goto (.scan .settle))
  | scanSettle (hb : s.busy = true) (hr : s.run = some (.scan .settle)) (hi : i = .scan) :
      ExecStep i s ((delay s.cfg.settleMs s).goto (.scan (.reading .poll)))
  | scanLast (hb : s.busy = true) (hr : s.run = some (.scan .lightOff)) (hi : i = .scan) (hc : s.ch + 1 = s.cfg.nch) :
      ExecStep i s ((ledSet (channelOf s.ch) false s).unlit.commit.answer i 0)
  | scanOff (hb : s.busy = true) (hr : s.run = some (.scan .lightOff)) (hi : i = .scan) (hc : s.ch + 1 ≠ s.cfg.nch) :
      ExecStep i s ((ledSet (channelOf s.ch) false s).unlit.nextChannel.goto (.scan .lightOn))
  | scanAbort (hb : s.busy = true) (c : Cause) (hr : s.run = some (.scan (.abort c))) (hi : i = .scan) :
      ExecStep i s ((ledSet s.ledonIdx false s).unlit.goto (.respond (some i) (failResponse c)))

/-! ## The equations behind it -/

theorem exec_accepted (i : Instr) (s : State) (hb : s.busy = false) :
    exec i s = .next (startOf i (s.accept (encode i))) := by
  cases i
  case getbit => exact getbit_accepted _ _ _ hb
  case setbit => exact setbit_accepted _ _ _ hb
  case clrbit => exact clrbit_accepted _ _ _ hb
  case decode => exact decode_accepted _ _ hb
  case setgain => exact setgain_accepted _ _ hb
  case setrate => exact setrate_accepted _ _ hb
  case setldo => exact setldo_accepted _ _ hb
  case begin => exact begin_accepted _ _ _ _ hb
  case calafe => exact calafe_accepted _ _ hb
  case waitcal => exact waitcal_accepted _ _ hb
  case calstat => exact calstat_accepted _ hb
  case calzero => exact calzero_accepted _ _ hb
  case avail => exact avail_accepted _ hb
  case getrd => exact getrd_accepted _ hb
  case getavg => exact getavg_accepted _ _ hb
  case getled => exact getled_accepted _ _ hb
  case scan => exact scan_accepted _ hb
  case rdsr => exact rdsr_accepted _ _ hb
  case rdstate => exact rdstate_accepted _ hb
  case rdzoff => exact rdzoff_accepted _ hb

/-- `CalibrateAFE` at its two read-modify-writes. -/
theorem resume_afe_start (i : Instr) (back : AfePos → Running) (rest : Unit → State → State) (t : Int)
    (started : State → State) (p : RmwPos) (s : State) :
    resume i back rest (calibrateAfe t started (.start p) s)
      = resume i (back <| .start ·) (fun _ s => (started s).goto (back (.wait .stamp)))
          (readModifyWrite s.cfg.regMap.fCals.reg (withBit s.cfg.regMap.fCals.bit) p s) := by
  simp only [calibrateAfe, setBit]
  generalize readModifyWrite _ _ _ _ = x
  obtain ⟨_ | _ | _, t⟩ := x <;> rfl

theorem resume_afe_convert (i : Instr) (back : AfePos → Running) (rest : Unit → State → State) (t : Int)
    (started : State → State) (p : RmwPos) (s : State) :
    resume i back rest (calibrateAfe t started (.convert p) s)
      = resume i (back <| .convert ·) rest
          (readModifyWrite s.cfg.regMap.fCs.reg (withBit s.cfg.regMap.fCs.bit) p s) := by
  simp only [calibrateAfe, setBit]
  generalize readModifyWrite _ _ _ _ = x
  obtain ⟨_ | _ | _, t⟩ := x <;> rfl

/-- What a command does with the end of its wait (R115, R120). -/
def waitEnd (m : WaitAt) (w : WaitResult) (s : State) : State :=
  match w with
  | .success => m.rest s
  | .failure => s.raise m.instr .calibrationFailure
  | .timedOut => s.raise m.instr .calibrationTimeout

theorem resume_afe_wait (i : Instr) (back : AfePos → Running) (rest : Unit → State → State) (t : Int)
    (started : State → State) (p : WaitPos) (s : State) :
    resume i back rest (calibrateAfe t started (.wait p) s)
      = resume i (back <| .wait ·) (waitEnd ⟨i, p, t, (back <| .wait ·), (·.goto (back (.convert .read)))⟩) (waitCal t p s) := by
  simp only [calibrateAfe]
  generalize waitCal _ _ _ = x
  obtain ⟨_ | (_ | _ | _) | _, t⟩ := x <;> rfl

theorem exec_rmw (s : State) (r : Running) (m : RmwAt) (hb : s.busy = true) (hr : s.run = some r)
    (hv : r.rmw s.cfg = some m) :
    exec m.instr s = .next (resume m.instr m.back (fun _ => m.rest) (readModifyWrite m.reg m.change m.pos s)) := by
  cases r <;> try cases hv
  case setbit => exact setbit_at _ _ _ _ hb hr
  case clrbit => exact clrbit_at _ _ _ _ hb hr
  case setgain => exact setgain_at _ _ _ hb hr
  case setrate => exact setrate_at _ _ _ hb hr
  case setldo => exact setldo_at _ _ _ hb hr
  case begin l g r p =>
    cases p <;> try cases hv
    case resetSet => exact begin_resetSet _ _ _ _ _ hb hr
    case resetClear => exact begin_resetClear _ _ _ _ _ hb hr
    case pud => exact begin_pud _ _ _ _ _ hb hr
    case pua => exact begin_pua _ _ _ _ _ hb hr
    case ldo => exact begin_ldo _ _ _ _ _ hb hr
    case gain => exact begin_gain _ _ _ _ _ hb hr
    case rate => exact begin_rate _ _ _ _ _ hb hr
    case pgacap => exact begin_pgacap _ _ _ _ _ hb hr
    case afe p =>
      cases p <;> cases hv <;> refine (begin_afe _ _ _ _ _ hb hr).trans ?_
      · rw [resume_afe_start]; rfl
      · rw [resume_afe_convert]; rfl
  case calafe tmo p =>
    cases p <;> cases hv <;> refine (calafe_at _ _ _ hb hr).trans ?_
    · rw [resume_afe_start]; rfl
    · rw [resume_afe_convert]; rfl

theorem exec_waiting (s : State) (r : Running) (m : WaitAt) (hb : s.busy = true) (hr : s.run = some r)
    (hv : r.waiting s.cfg = some m) :
    exec m.instr s = .next (resume m.instr m.back (waitEnd m) (waitCal m.timeout m.pos s)) := by
  cases r <;> try cases hv
  case waitcal =>
    refine (waitcal_at _ _ _ hb hr).trans ?_
    rfl
  case begin l g r p =>
    cases p <;> try cases hv
    case afe p =>
      cases p <;> cases hv
      exact (begin_afe _ _ _ _ _ hb hr).trans (by rw [resume_afe_wait])
  case calafe tmo p =>
    cases p <;> cases hv
    exact (calafe_at _ _ _ hb hr).trans (by rw [resume_afe_wait])

theorem exec_reading (s : State) (r : Running) (m : ReadingAt) (hb : s.busy = true) (hr : s.run = some r)
    (hv : r.gettingReading = some m) :
    exec m.instr s = .next (resume m.instr m.back m.rest (getReading m.pos s)) := by
  cases r <;> try cases hv
  case getrd => exact getrd_at _ _ hb hr
  case getled => exact getled_at _ _ _ hb hr
  case scan p =>
    cases p <;> cases hv
    exact scan_reading _ _ hb hr

theorem exec_averaging (s : State) (r : Running) (m : AverageAt) (hb : s.busy = true) (hr : s.run = some r)
    (hv : r.averaging = some m) :
    exec m.instr s = .next (resume m.instr m.back m.rest (average m.count m.pos s)) := by
  cases r <;> cases hv
  case getavg => exact getavg_at _ _ _ hb hr
  case calzero => exact calzero_at _ _ _ hb hr

theorem rmw_instr {cfg : Config} {r : Running} {m : RmwAt} (h : r.rmw cfg = some m) : r.instr = some m.instr := by
  cases r <;> try cases h
  all_goals try rfl
  case begin p => cases p <;> try cases h
                  all_goals try rfl
                  rename_i p; cases p <;> cases h <;> rfl
  case calafe p => cases p <;> cases h <;> rfl

theorem waiting_instr {cfg : Config} {r : Running} {m : WaitAt} (h : r.waiting cfg = some m) :
    r.instr = some m.instr := by
  cases r <;> try cases h
  all_goals try rfl
  case begin p => cases p <;> try cases h
                  rename_i p; cases p <;> cases h; rfl
  case calafe p => cases p <;> cases h; rfl

theorem gettingReading_instr {r : Running} {m : ReadingAt} (h : r.gettingReading = some m) :
    r.instr = some m.instr := by
  cases r <;> try cases h
  all_goals try rfl
  case scan p => cases p <;> cases h; rfl

theorem averaging_instr {r : Running} {m : AverageAt} (h : r.averaging = some m) : r.instr = some m.instr := by
  cases r <;> cases h <;> rfl

theorem bad_of_some {s : State} (h : ∃ b, (s.moveAt 0).busFault = some b) : s.bad := by
  obtain ⟨b, hb⟩ := h
  simp [State.bad, hb]


/-! ## Every outcome of an interaction is one of `ExecStep`, and each of `ExecStep` is one -/

theorem execStep_of_rmw {s t : State} {r : Running} {m : RmwAt} (hb : s.busy = true) (hr : s.run = some r)
    (hv : r.rmw s.cfg = some m) (h : exec m.instr s = .next t) : ExecStep m.instr s t := by
  rw [exec_rmw s r m hb hr hv] at h
  generalize hx : readModifyWrite _ _ _ _ = x at h
  rcases readModifyWrite_cases hx with ⟨hp, hm, rfl⟩ | ⟨hp, hm, rfl⟩ | ⟨v, hp, hm, -, rfl⟩ | ⟨v, hp, hm, -, rfl⟩ <;> cases h
  · exact .rmwRead hb r hr m hv rfl hp hm
  · exact .rmwReadFault hb r hr m hv rfl hp (bad_of_some hm)
  · exact .rmwWrite hb r hr m hv rfl v hp hm
  · exact .rmwWriteFault hb r hr m hv rfl v hp (bad_of_some hm)

theorem execStep_of_waiting {s t : State} {r : Running} {m : WaitAt} (hb : s.busy = true) (hr : s.run = some r)
    (hv : r.waiting s.cfg = some m) (h : exec m.instr s = .next t) : ExecStep m.instr s t := by
  rw [exec_waiting s r m hb hr hv] at h
  generalize hx : waitCal _ _ _ = x at h
  rcases waitCal_cases hx with ⟨hp, rfl⟩ | ⟨hp, hm, rfl⟩ | ⟨hp, hm, rfl⟩ | ⟨hp, hm, he, rfl⟩ | ⟨hp, hm, he, rfl⟩
    | ⟨hp, hm, rfl⟩ | ⟨hp, hc, hc', rfl⟩ | ⟨hp, hc, rfl⟩ | ⟨hp, rfl⟩
  · cases h; exact .waitStamp hb r hr m hv rfl hp
  · cases hc : s.bitAt 0 s.cfg.regMap.fCals <;> rw [hc] at h <;> cases h
    · exact .waitEnded hb r hr m hv rfl hp hm hc
    · exact .waitBusy hb r hr m hv rfl hp hm hc
  · cases h; exact .waitStartFault hb r hr m hv rfl hp (bad_of_some hm)
  · cases h; exact .waitFailure hb r hr m hv rfl hp hm he
  · cases h; exact .waitSuccess hb r hr m hv rfl hp hm he
  · cases h; exact .waitErrorFault hb r hr m hv rfl hp (bad_of_some hm)
  · cases h; exact .waitTimedOut hb r hr m hv rfl hp hc hc'
  · cases h; exact .waitInTime hb r hr m hv rfl hp hc
  · cases h; exact .waitPause hb r hr m hv rfl hp

theorem execStep_of_reading {s t : State} {r : Running} {m : ReadingAt} (hb : s.busy = true) (hr : s.run = some r)
    (hv : r.gettingReading = some m) (h : exec m.instr s = .next t) : ExecStep m.instr s t := by
  rw [exec_reading s r m hb hr hv] at h
  generalize hx : getReading _ _ = x at h
  rcases getReading_cases hx with ⟨hp, hm, rfl⟩ | ⟨hp, hm, rfl⟩ | ⟨hp, hm, rfl⟩ | ⟨hp, hm, rfl⟩ | ⟨hp, rfl⟩ <;> cases h
  · exact .pollReading hb r hr m hv rfl hp hm
  · exact .pollReadingFault hb r hr m hv rfl hp (bad_of_some hm)
  · exact .sampleReading hb r hr m hv rfl hp hm
  · exact .sampleReadingFault hb r hr m hv rfl hp (bad_of_some hm)
  · exact .pauseReading hb r hr m hv rfl hp

theorem execStep_of_averaging {s t : State} {r : Running} {m : AverageAt} (hb : s.busy = true) (hr : s.run = some r)
    (hv : r.averaging = some m) (h : exec m.instr s = .next t) : ExecStep m.instr s t := by
  rw [exec_averaging s r m hb hr hv] at h
  generalize hx : average _ _ _ = x at h
  rcases average_cases hx with ⟨hp, rfl⟩ | ⟨hp, hm, rfl⟩ | ⟨hp, hm, rfl⟩ | ⟨hp, hm, hk, rfl⟩ | ⟨hp, hm, hk, rfl⟩
    | ⟨hp, hm, rfl⟩ | ⟨hp, hc, rfl⟩ | ⟨hp, hc, rfl⟩ | ⟨hp, rfl⟩ <;> cases h
  · exact .averageStamp hb r hr m hv rfl hp
  · exact .averagePoll hb r hr m hv rfl hp hm
  · exact .averagePollFault hb r hr m hv rfl hp (bad_of_some hm)
  · exact .averageLast hb r hr m hv rfl hp hm hk
  · exact .averageMore hb r hr m hv rfl hp hm hk
  · exact .averageSampleFault hb r hr m hv rfl hp (bad_of_some hm)
  · exact .averageTimedOut hb r hr m hv rfl hp hc
  · exact .averageInTime hb r hr m hv rfl hp hc
  · exact .averagePause hb r hr m hv rfl hp

/-- The two reads of `CALSTAT`. -/
theorem execStep_of_calstat {s t : State} {p : StatPos} (hb : s.busy = true) (hr : s.run = some (.calstat p))
    (h : exec .calstat s = .next t) : ExecStep .calstat s t := by
  rw [calstat_at s p hb hr] at h
  generalize hx : calStatus _ _ = x at h
  rcases calStatus_cases hx with ⟨rfl, hm, hc, rfl⟩ | ⟨rfl, hm, hc, rfl⟩ | ⟨rfl, hm, rfl⟩ | ⟨rfl, hm, rfl⟩ | ⟨rfl, hm, rfl⟩
    <;> cases h
  · exact .calstatBusy hb hr rfl hm hc
  · exact .calstatEnded hb hr rfl hm hc
  · exact .calstatStartFault hb hr rfl (bad_of_some hm)
  · exact .calstatResult hb hr rfl hm
  · exact .calstatErrorFault hb hr rfl (bad_of_some hm)

/-- The positions of `BEGIN` outside the shared procedures. -/
theorem execStep_of_begin {s t : State} {l g x : Byte} {p : BeginPos} (hb : s.busy = true)
    (hr : s.run = some (.begin l g x p)) (h : exec (.begin l g x) s = .next t) : ExecStep (.begin l g x) s t := by
  cases p
  case resetHold => rw [begin_resetHold s l g x hb hr] at h; cases h; exact .beginHold hb l g x hr rfl
  case resetSettle => rw [begin_resetSettle s l g x hb hr] at h; cases h; exact .beginSettle hb l g x hr rfl
  case purPause => rw [begin_purPause s l g x hb hr] at h; cases h; exact .beginPause hb l g x hr rfl
  case chop =>
    rw [begin_chop s l g x hb hr] at h
    cases hm : (s.moveAt 0).busFault with
    | none =>
      rw [if_pos ((writeOk_iff s).mpr hm)] at h
      cases h
      exact .beginChop hb l g x hr rfl hm
    | some b =>
      have hw : s.writeOk = false := by simp [State.writeOk, nextMove_eq, hm]
      rw [if_neg (by simp [hw])] at h
      cases h
      exact .beginChopFault hb l g x hr rfl (by simp [State.bad, hm])
  case purPoll =>
    rw [begin_purPoll s l g x hb hr] at h
    generalize hx : powerUpPoll _ = y at h
    rcases powerUpPoll_cases hx with ⟨hm, hp, rfl⟩ | ⟨hm, hp, hk, rfl⟩ | ⟨hm, hp, hk, rfl⟩ | ⟨hm, rfl⟩ <;> cases h
    · exact .beginPowered hb l g x hr rfl hm hp
    · exact .beginUnpowered hb l g x hr rfl hm hp hk
    · exact .beginPollAgain hb l g x hr rfl hm hp hk
    · exact .beginPollFault hb l g x hr rfl (bad_of_some hm)
  case afe p =>
    cases p
    case wait => exact execStep_of_waiting hb hr rfl h
    all_goals exact execStep_of_rmw hb hr rfl h
  all_goals exact execStep_of_rmw hb hr rfl h

/-- The positions of `SCAN`. -/
theorem execStep_of_scan {s t : State} {p : ScanPos} (hb : s.busy = true) (hr : s.run = some (.scan p))
    (h : exec .scan s = .next t) : ExecStep .scan s t := by
  cases p
  case lightOn => rw [scan_lightOn s hb hr] at h; cases h; exact .scanOn hb hr rfl
  case settle => rw [scan_settle s hb hr] at h; cases h; exact .scanSettle hb hr rfl
  case abort c => rw [scan_abort s c hb hr] at h; cases h; exact .scanAbort hb c hr rfl
  case reading => exact execStep_of_reading hb hr rfl h
  case lightOff =>
    rw [scan_lightOff s hb hr] at h
    by_cases hc : s.ch + 1 = s.cfg.nch
    · rw [scanNext, if_pos (by exact hc)] at h
      cases h
      exact .scanLast hb hr rfl hc
    · rw [scanNext, if_neg (by exact hc)] at h
      cases h
      exact .scanOff hb hr rfl hc

/-- Everything a step of a command can do. -/
theorem execStep_of_exec {i : Instr} {s t : State} (h : exec i s = .next t) : ExecStep i s t := by
  rcases exec_cases h with hb | ⟨hb, r, hr, rfl⟩ | ⟨hb, r, hr, hi, hn⟩ | ⟨hb, rfl, hn⟩
  · rw [exec_accepted i s hb] at h
    cases h
    exact .accepted hb
  · exact .respond hb r hr
  · cases r
    case respond => exact absurd rfl (hn _ _)
    case begin => cases hi; exact execStep_of_begin hb hr h
    case scan => cases hi; exact execStep_of_scan hb hr h
    case calstat => cases hi; exact execStep_of_calstat hb hr h
    case calafe p =>
      cases hi
      cases p
      case wait => exact execStep_of_waiting hb hr rfl h
      all_goals exact execStep_of_rmw hb hr rfl h
    case waitcal => cases hi; exact execStep_of_waiting hb hr rfl h
    case getrd => cases hi; exact execStep_of_reading hb hr rfl h
    case getled => cases hi; exact execStep_of_reading hb hr rfl h
    case getavg => cases hi; exact execStep_of_averaging hb hr rfl h
    case calzero => cases hi; exact execStep_of_averaging hb hr rfl h
    case getbit reg bit =>
      cases hi
      rw [getbit_at s reg bit hb hr] at h
      generalize hx : getBit _ _ = x at h
      rcases getBit_cases hx with ⟨hm, -, rfl⟩ | ⟨b, hm, rfl⟩ <;> cases h
      · exact .getbit hb reg bit hr rfl hm
      · exact .getbitFault hb reg bit hr rfl (bad_of_some ⟨b, hm⟩)
    case avail =>
      cases hi
      rw [avail_at s hb hr] at h
      simp only [available] at h
      generalize hx : getBit _ _ = x at h
      rcases getBit_cases hx with ⟨hm, -, rfl⟩ | ⟨b, hm, rfl⟩ <;> cases h
      · exact .avail hb hr rfl hm
      · exact .availFault hb hr rfl (bad_of_some ⟨b, hm⟩)
    all_goals cases hi; exact execStep_of_rmw hb hr rfl h
  · exact .other hb hn

/-- Every command has a next state in every state. -/
theorem exec_next (i : Instr) (s : State) : ∃ t, exec i s = .next t := by
  cases i <;> exact ⟨_, rfl⟩

/-- Each of `ExecStep` is a step of the command. -/
theorem exec_of_execStep {i : Instr} {s t : State} (h : ExecStep i s t) : exec i s = .next t := by
  cases h with
  | accepted hb => exact exec_accepted i s hb
  | respond hb r hr => exact exec_respond i s r hb hr
  | other hb hr => exact exec_other i s hb hr
  | rmwRead hb r hr m hv hi hp hm =>
    subst hi; rw [exec_rmw s r m hb hr hv, hp, readModifyWrite_read_ok _ _ _ hm]; rfl
  | rmwReadFault hb r hr m hv hi hp hm =>
    subst hi; rw [exec_rmw s r m hb hr hv, hp, readModifyWrite_read_fault _ _ _ hm]; rfl
  | rmwWrite hb r hr m hv hi v hp hm =>
    subst hi; rw [exec_rmw s r m hb hr hv, hp, readModifyWrite_write_ok _ _ _ _ hm]; rfl
  | rmwWriteFault hb r hr m hv hi v hp hm =>
    subst hi; rw [exec_rmw s r m hb hr hv, hp, readModifyWrite_write_fault _ _ _ _ hm]; rfl
  | waitStamp hb r hr m hv hi hp => subst hi; rw [exec_waiting s r m hb hr hv, hp]; rfl
  | waitBusy hb r hr m hv hi hp hm hc =>
    subst hi; rw [exec_waiting s r m hb hr hv, hp]
    simp only [waitCal, calStatus, getBit_ok _ s hm, hc]; rfl
  | waitEnded hb r hr m hv hi hp hm hc =>
    subst hi; rw [exec_waiting s r m hb hr hv, hp]
    simp only [waitCal, calStatus, getBit_ok _ s hm, hc]; rfl
  | waitStartFault hb r hr m hv hi hp hm =>
    subst hi; rw [exec_waiting s r m hb hr hv, hp]
    simp only [waitCal, calStatus, getBit_fault _ s hm]; rfl
  | waitFailure hb r hr m hv hi hp hm hc =>
    subst hi; rw [exec_waiting s r m hb hr hv, hp]
    simp only [waitCal, calStatus, getBit_ok _ s hm, hc]; rfl
  | waitSuccess hb r hr m hv hi hp hm hc =>
    subst hi; rw [exec_waiting s r m hb hr hv, hp]
    simp only [waitCal, calStatus, getBit_ok _ s hm, hc]; rfl
  | waitErrorFault hb r hr m hv hi hp hm =>
    subst hi; rw [exec_waiting s r m hb hr hv, hp]
    simp only [waitCal, calStatus, getBit_fault _ s hm]; rfl
  | waitTimedOut hb r hr m hv hi hp ht he =>
    subst hi; rw [exec_waiting s r m hb hr hv, hp, waitCal, if_pos ⟨ht, he⟩]; rfl
  | waitInTime hb r hr m hv hi hp he =>
    subst hi; rw [exec_waiting s r m hb hr hv, hp, waitCal, if_neg (by exact he)]; rfl
  | waitPause hb r hr m hv hi hp => subst hi; rw [exec_waiting s r m hb hr hv, hp]; rfl
  | pollReading hb r hr m hv hi hp hm =>
    subst hi; rw [exec_reading s r m hb hr hv, hp]
    simp only [getReading, available, getBit_ok _ s hm]
    cases s.bitAt 0 s.cfg.regMap.fCr <;> rfl
  | pollReadingFault hb r hr m hv hi hp hm =>
    subst hi; rw [exec_reading s r m hb hr hv, hp]
    simp only [getReading, available, getBit_fault _ s hm]; rfl
  | sampleReading hb r hr m hv hi hp hm =>
    subst hi; rw [exec_reading s r m hb hr hv, hp, readSample_snd, blockAnswer_ok s _ hm]
    simp only [getReading, readSample_ok s hm]; rfl
  | sampleReadingFault hb r hr m hv hi hp hm =>
    subst hi; rw [exec_reading s r m hb hr hv, hp]
    obtain ⟨b, hm'⟩ := Option.isSome_iff_exists.mp hm
    rw [readSample_snd, blockAnswer_fault s _ b hm']
    simp only [getReading, readSample_fault s hm]; rfl
  | pauseReading hb r hr m hv hi hp => subst hi; rw [exec_reading s r m hb hr hv, hp]; rfl
  | averageStamp hb r hr m hv hi hp => subst hi; rw [exec_averaging s r m hb hr hv, hp]; rfl
  | averagePoll hb r hr m hv hi hp hm =>
    subst hi; rw [exec_averaging s r m hb hr hv, hp]
    simp only [average, available, getBit_ok _ s hm]
    cases s.bitAt 0 s.cfg.regMap.fCr <;> rfl
  | averagePollFault hb r hr m hv hi hp hm =>
    subst hi; rw [exec_averaging s r m hb hr hv, hp]
    simp only [average, available, getBit_fault _ s hm]; rfl
  | averageLast hb r hr m hv hi hp hm hk =>
    subst hi; rw [exec_averaging s r m hb hr hv, hp, readSample_snd, blockAnswer_ok s _ hm]
    simp only [average, readSample_ok s hm]
    rw [if_pos (by exact hk)]; rfl
  | averageMore hb r hr m hv hi hp hm hk =>
    subst hi; rw [exec_averaging s r m hb hr hv, hp, readSample_snd, blockAnswer_ok s _ hm]
    simp only [average, readSample_ok s hm]
    rw [if_neg (by exact hk)]; rfl
  | averageSampleFault hb r hr m hv hi hp hm =>
    subst hi; rw [exec_averaging s r m hb hr hv, hp]
    obtain ⟨b, hm'⟩ := Option.isSome_iff_exists.mp hm
    rw [readSample_snd, blockAnswer_fault s _ b hm']
    simp only [average, readSample_fault s hm]; rfl
  | averageTimedOut hb r hr m hv hi hp he =>
    subst hi; rw [exec_averaging s r m hb hr hv, hp, average, if_pos (by exact he)]; rfl
  | averageInTime hb r hr m hv hi hp he =>
    subst hi; rw [exec_averaging s r m hb hr hv, hp, average, if_neg (by exact he)]; rfl
  | averagePause hb r hr m hv hi hp => subst hi; rw [exec_averaging s r m hb hr hv, hp]; rfl
  | getbit hb reg bit hr hi hm => subst hi; rw [getbit_at s reg bit hb hr, getBit_ok _ s hm]; rfl
  | getbitFault hb reg bit hr hi hm => subst hi; rw [getbit_at s reg bit hb hr, getBit_fault _ s hm]; rfl
  | avail hb hr hi hm => subst hi; rw [avail_at s hb hr, available, getBit_ok _ s hm]; rfl
  | availFault hb hr hi hm => subst hi; rw [avail_at s hb hr, available, getBit_fault _ s hm]; rfl
  | calstatBusy hb hr hi hm hc =>
    subst hi; rw [calstat_at s _ hb hr, calStatus, getBit_ok _ s hm, hc]; rfl
  | calstatEnded hb hr hi hm hc =>
    subst hi; rw [calstat_at s _ hb hr, calStatus, getBit_ok _ s hm, hc]; rfl
  | calstatStartFault hb hr hi hm =>
    subst hi; rw [calstat_at s _ hb hr, calStatus, getBit_fault _ s hm]; rfl
  | calstatResult hb hr hi hm =>
    subst hi; rw [calstat_at s _ hb hr, calStatus, getBit_ok _ s hm]
    cases s.bitAt 0 s.cfg.regMap.fCalerr <;> rfl
  | calstatErrorFault hb hr hi hm =>
    subst hi; rw [calstat_at s _ hb hr, calStatus, getBit_fault _ s hm]; rfl
  | beginHold hb l g x hr hi => subst hi; exact begin_resetHold s l g x hb hr
  | beginSettle hb l g x hr hi => subst hi; exact begin_resetSettle s l g x hb hr
  | beginPowered hb l g x hr hi hm hp =>
    subst hi; rw [begin_purPoll s l g x hb hr, powerUpPoll, getBit_ok _ s hm, hp]; rfl
  | beginUnpowered hb l g x hr hi hm hp hk =>
    subst hi; rw [begin_purPoll s l g x hb hr, powerUpPoll, getBit_ok _ s hm, hp]
    simp only []
    rw [if_pos (by exact hk)]; rfl
  | beginPollAgain hb l g x hr hi hm hp hk =>
    subst hi; rw [begin_purPoll s l g x hb hr, powerUpPoll, getBit_ok _ s hm, hp]
    simp only []
    rw [if_neg (by exact hk)]; rfl
  | beginPollFault hb l g x hr hi hm =>
    subst hi; rw [begin_purPoll s l g x hb hr, powerUpPoll, getBit_fault _ s hm]; rfl
  | beginPause hb l g x hr hi => subst hi; exact begin_purPause s l g x hb hr
  | beginChop hb l g x hr hi hm =>
    subst hi; rw [begin_chop s l g x hb hr, if_pos ((writeOk_iff s).mpr hm)]
  | beginChopFault hb l g x hr hi hm =>
    subst hi
    obtain ⟨b, hm'⟩ := Option.isSome_iff_exists.mp hm
    rw [begin_chop s l g x hb hr, if_neg (by simp [State.writeOk, nextMove_eq, hm'])]
  | scanOn hb hr hi => subst hi; exact scan_lightOn s hb hr
  | scanSettle hb hr hi => subst hi; exact scan_settle s hb hr
  | scanLast hb hr hi hc => subst hi; rw [scan_lightOff s hb hr, scanNext, if_pos (by exact hc)]
  | scanOff hb hr hi hc => subst hi; rw [scan_lightOff s hb hr, scanNext, if_neg (by exact hc)]
  | scanAbort hb c hr hi => subst hi; exact scan_abort s c hb hr

/-! ## A step of the machine -/

/-- Everything a step can be: reset, a word accepted, the command in execution, the response to an illegal word, or
nothing to do. -/
theorem step_cases {s t : State} (h : step s = .next t) :
    (∃ landed, s.scriptedReset = some landed ∧ t = resetStep landed s)
      ∨ (s.scriptedReset = none ∧ s.busy = false ∧ ∃ cw rest i, s.port = cw :: rest ∧ decode cw = some i
          ∧ exec i (s.withPort rest) = .next t)
      ∨ (s.scriptedReset = none ∧ s.busy = false ∧ ∃ cw rest, s.port = cw :: rest ∧ decode cw = none
          ∧ t = (s.withPort rest).reject cw)
      ∨ (s.scriptedReset = none ∧ s.busy = true ∧ ∃ r i, s.run = some r ∧ r.instr = some i ∧ exec i s = .next t)
      ∨ (s.scriptedReset = none ∧ s.busy = true ∧ ∃ r, s.run = some (.respond none r) ∧ t = s.deliver r)
      ∨ (s.scriptedReset = none ∧ (s.busy = false ∧ s.port = [] ∨ s.busy = true ∧ s.run = none) ∧ t = s.idle) := by
  simp only [step, stepOnce] at h
  cases hs : s.scriptedReset with
  | some landed =>
    rw [hs] at h
    cases h
    exact .inl ⟨landed, rfl, rfl⟩
  | none =>
    rw [hs] at h
    refine .inr ?_
    simp only [stepBlock] at h
    cases hb : s.busy with
    | false =>
      rw [hb, if_neg Bool.false_ne_true, acceptNext] at h
      cases hp : s.port with
      | nil =>
        rw [hp] at h
        cases h
        exact .inr (.inr (.inr (.inr ⟨rfl, .inl ⟨rfl, rfl⟩, rfl⟩)))
      | cons cw rest =>
        rw [hp] at h
        cases hd : decode cw with
        | some i =>
          simp only [hd] at h
          exact .inl ⟨rfl, rfl, cw, rest, i, rfl, hd, h⟩
        | none =>
          simp only [hd] at h
          cases h
          exact .inr (.inl ⟨rfl, rfl, cw, rest, rfl, hd, rfl⟩)
    | true =>
      rw [hb, if_pos rfl, continueRun] at h
      refine .inr (.inr ?_)
      cases hr : s.run with
      | none =>
        rw [hr] at h
        cases h
        exact .inr (.inr ⟨rfl, .inr ⟨rfl, rfl⟩, rfl⟩)
      | some r =>
        rw [hr] at h
        cases r
        case respond i x =>
          cases i with
          | none => cases h; exact .inr (.inl ⟨rfl, rfl, x, rfl, rfl⟩)
          | some i => exact .inl ⟨rfl, rfl, _, i, rfl, rfl, h⟩
        all_goals exact .inl ⟨rfl, rfl, _, _, rfl, rfl, h⟩

/-- What reset leaves of a state. -/
theorem resetStep_eq (landed : Bool) (s : State) :
    resetStep landed s = { State.reset with
      cfg := s.cfg, port := s.port, trace := .reset :: s.trace, now := (s.environ 0).now,
      dev := (s.inFlight landed).dev, led := (s.inFlight landed).led, script := s.script.tail, tick := s.tick + 1 } := rfl

/-! ## Small facts the invariants rest on -/

/-- A result register after one of the eight has changed. -/
theorem resultAt_setResult (v : Vector Word 8) (i j : BitVec 3) (x : Word) :
    resultAt (setResult v i x) j = if i = j then x else resultAt v j := by
  simp only [resultAt, setResult]
  rw [Vector.getElem_set]
  simp [BitVec.toNat_inj]

/-- While `BEGIN` runs, the state of its sub-step is a legal one and not Faulted. -/
theorem phase_legal (p : BeginPos) : p.phase ≤ 6 ∧ p.phase ≠ calFaulted := by
  rcases p with _ | _ | _ | _ | _ | _ | _ | _ | _ | _ | _ | _ | _ | (_ | _ | _) <;>
    exact ⟨by simp only [BeginPos.phase]; decide, by simp only [BeginPos.phase]; decide⟩

/-- The codes a failed `BEGIN` can leave in `FCAUSE`. -/
theorem code_of_begin {ldo gain rate : Byte} (c : Cause) (h : c ∈ causesOf (.begin ldo gain rate)) :
    c.code = 0x01 ∨ c.code = 0x02 ∨ c.code = 0x03 ∨ c.code = 0x04 := by
  cases c <;> simp [causesOf, Cause.code] at h ⊢

end Sys2Proof.Machine
end

