-- ==== Sys2Proof/Tests/Slice0.lean ====
section
/-! SUPPORT. The model's own tests. Expected values are the spec's: the examples of its rules and the vectors of
95_test_vectors.md (V numbers). -/

namespace Sys2Proof.Tests

open Sys2Proof.Machine

/-! ## Small states -/

/-- A move in which nothing happens. -/
def quiet : Move := ⟨0, [], none, none⟩
/-- A move in which a bus interaction faults; a register whose write faulted then holds `b`. -/
def faulty (b : Byte) : Move := ⟨0, [], some b, none⟩
/-- A move in which the device sets one of its registers. -/
def sets (a v : Byte) : Move := ⟨0, [(a, v)], none, none⟩
/-- A move that takes time. -/
def takes (k : Word) : Move := ⟨k, [], none, none⟩
/-- A move during which reset is asserted. -/
def resets (landed : Bool) : Move := ⟨0, [], none, some landed⟩

/-- A block that is not busy, its device and its script. -/
def idle (dev : Memory) (script : List Move) : State := { State.reset with dev := dev, script := script }
/-- The same with a word at the port. -/
def offered (cw : Word) (script : List Move) : State := { State.reset with port := [cw], script := script }
/-- A block in the course of a command. -/
def amid (r : Running) (dev : Memory) (script : List Move) : State :=
  { State.reset with busy := true, run := some r, dev := dev, script := script }

/-- The next state. -/
def nextOf : Out → State
  | .next t => t
  | _ => State.reset
/-- The position reached. -/
def at_ (o : Out) : Option Running := (nextOf o).run
/-- The event of the step. -/
def event (o : Out) : Option Event := (nextOf o).trace.head?
/-- The bytes of a sample where the block read finds them. -/
def sampleBytes (y0 y1 y2 : Byte) : Memory := cellOf 0x12 y0 ++ cellOf 0x13 y1 ++ cellOf 0x14 y2

/-! ## What the well-formedness checks refuse -/

theorem test_wf_getbit_reg : (Asm.getbit (.pair 256 0)).wf = false := by decide
theorem test_wf_getbit_bit : (Asm.getbit (.pair 0 8)).wf = false := by decide
theorem test_wf_setbit_reg : (Asm.setbit (.pair (-1) 0)).wf = false := by decide
theorem test_wf_clrbit_bit : (Asm.clrbit (.pair 0 (-1))).wf = false := by decide
theorem test_wf_decode : (Asm.decode 0x1000000).wf = false := by decide
theorem test_wf_setgain : (Asm.setgain 256).wf = false := by decide
theorem test_wf_setrate : (Asm.setrate 256).wf = false := by decide
theorem test_wf_setldo : (Asm.setldo (-1)).wf = false := by decide
theorem test_wf_begin_ldo : (Asm.begin 256 0 0).wf = false := by decide
theorem test_wf_begin_gain : (Asm.begin 0 256 0).wf = false := by decide
theorem test_wf_begin_rate : (Asm.begin 0 0 256).wf = false := by decide
theorem test_wf_calafe : (Asm.calafe (some 8388608)).wf = false := by decide
theorem test_wf_waitcal : (Asm.waitcal (some (-8388609))).wf = false := by decide
theorem test_wf_calzero : (Asm.calzero 65536).wf = false := by decide
theorem test_wf_getavg : (Asm.getavg (-1)).wf = false := by decide
theorem test_wf_rdsr : (Asm.rdsr 8).wf = false := by decide
theorem test_wf_accepts_edges :
    (Asm.setgain 255).wf ∧ (Asm.waitcal (some 8388607)).wf ∧ (Asm.waitcal (some (-8388608))).wf ∧ (Asm.rdsr 7).wf := by
  decide
theorem test_wf_field_place : RegMap.wf { RegMap.default with fldRate := ⟨0x02, 6⟩ } = false := by decide
theorem test_wf_fields_overlap : RegMap.wf { RegMap.default with fldLdo := ⟨0x01, 2⟩ } = false := by decide
theorem test_wf_field_max : Config.wf { Config.default with fieldMax := 8 } = false := by decide
theorem test_wf_no_polls : Config.wf { Config.default with puPollMax := 0 } = false := by decide
theorem test_wf_reset_settle : Config.wf { Config.default with resetSettleMs := 0 } = false := by decide
theorem test_wf_led_settle : Config.wf { Config.default with settleMs := 4 } = false := by decide
theorem test_wf_channels : Config.wf { Config.default with nch := 9 } = false := by decide
theorem test_wf_no_channels : Config.wf { Config.default with nch := 0 } = false := by decide
theorem test_wf_sample_bits : Config.wf { Config.default with sampleBits := 25 } = false := by decide
theorem test_wf_no_sample_bits : Config.wf { Config.default with sampleBits := 0 } = false := by decide
theorem test_wf_xlen : Config.wf { Config.default with xlen := 31 } = false := by decide
theorem test_wf_nmax : Config.wf { Config.default with nmax := 0 } = false := by decide
theorem test_wf_default : Config.default.wf = true := by decide

/-! ## Decoding: words written out from the formats of R66 (V1 to V9n) -/

theorem test_decode_getbit : decode 0b00000001_00000000_00000000_00000_101 = some (.getbit 0x00 5) := by decide
theorem test_decode_setbit : decode 0b00000010_00000000_00011100_00000_111 = some (.setbit 0x1C 7) := by decide
theorem test_decode_clrbit : decode 0b00000011_00000000_11111111_00000_000 = some (.clrbit 0xFF 0) := by decide
theorem test_decode_decode : decode 0b00000100_000100100011010001010110 = some (.decode 0x123456) := by decide
theorem test_decode_setgain : decode 0b00000101_0000000000000000_11001000 = some (.setgain 200) := by decide
theorem test_decode_setrate : decode 0b00000110_0000000000000000_00000011 = some (.setrate 3) := by decide
theorem test_decode_setldo : decode 0b00000111_0000000000000000_00001001 = some (.setldo 9) := by decide
theorem test_decode_begin : decode 0b00010000_00000100_00000111_00000011 = some (.begin 4 7 3) := by decide
theorem test_decode_calafe : decode 0b00010010_000000000000001111101000 = some (.calafe 1000) := by decide
theorem test_decode_waitcal : decode 0b00010011_111111111111111111111111 = some (.waitcal (-1)) := by decide
theorem test_decode_calstat : decode 0b00010100_000000000000000000000000 = some .calstat := by decide
theorem test_decode_calzero : decode 0b00010101_00000000_0000000000000100 = some (.calzero 4) := by decide
theorem test_decode_avail : decode 0b00100000_000000000000000000000000 = some .avail := by decide
theorem test_decode_getrd : decode 0b00100001_000000000000000000000000 = some .getrd := by decide
theorem test_decode_getavg : decode 0b00100010_00000000_1111111111111111 = some (.getavg 65535) := by decide
theorem test_decode_getled : decode 0b00100011_00000000000000000000000_1 = some (.getled true) := by decide
theorem test_decode_scan : decode 0b00110000_000000000000000000000000 = some .scan := by decide
theorem test_decode_rdsr : decode 0b00110001_000000000000000000000_111 = some (.rdsr 7) := by decide
theorem test_decode_rdstate : decode 0b00110010_000000000000000000000000 = some .rdstate := by decide
theorem test_decode_rdzoff : decode 0b00110011_000000000000000000000000 = some .rdzoff := by decide
theorem test_decode_unused_opcodes :
    decode 0x00000000 = none ∧ decode 0x11000000 = none ∧ decode 0xFFFFFFFF = none := by decide
theorem test_decode_reserved_bits :
    decode 0x01010005 = none ∧ decode 0x01000015 = none ∧ decode 0x05000100 = none ∧ decode 0x22010000 = none
      ∧ decode 0x23000002 = none ∧ decode 0x30000001 = none ∧ decode 0x31000008 = none := by decide
theorem test_table_word : decodeTableWord 32 0x02001C07 = some (.setbit 0x1C 7) := by decide
theorem test_fetch_word :
    (nextOf (step (State.reset.withFetchWord 32 0x02001C07))).run = some (.setbit 0x1C 7 .read) := by decide

/-! ## One step of each command -/

/-- V11 -/
theorem test_getbit : at_ (exec (.getbit 0x00 5) (amid (.getbit 0x00 5) [(0x00, 0x2E)] [quiet]))
    = some (.respond (some (.getbit 0x00 5)) ⟨0x00, 1⟩) := by decide
/-- V12 -/
theorem test_getbit_fault : at_ (exec (.getbit 0x00 5) (amid (.getbit 0x00 5) [(0x00, 0x2E)] [faulty 0]))
    = some (.respond (some (.getbit 0x00 5)) ⟨0x01, 0⟩) := by decide
/-- V14 -/
theorem test_setbit : at_ (exec (.setbit 0x1C 7) (amid (.setbit 0x1C 7 .read) [(0x1C, 0x05)] [quiet]))
    = some (.setbit 0x1C 7 (.write 0x85)) := by decide
/-- V19 -/
theorem test_setbit_write_fault : event (exec (.setbit 0x00 4) (amid (.setbit 0x00 4 (.write 0x1E)) [] [faulty 0x0E]))
    = some (.wr 0x2A 0x00 0x1E false) := by decide
/-- V17 -/
theorem test_clrbit : at_ (exec (.clrbit 0x02 7) (amid (.clrbit 0x02 7 .read) [(0x02, 0xFF)] [quiet]))
    = some (.clrbit 0x02 7 (.write 0x7F)) := by decide
/-- V16 -/
theorem test_clrbit_write : (nextOf (exec (.clrbit 0x00 0) (amid (.clrbit 0x00 0 (.write 0x00)) [(0x00, 0x01)] [quiet]))).dev
    = [] := by decide
/-- V33 -/
theorem test_decode_answer : at_ (exec (.decode 0x800000) (idle [] []))
    = some (.respond (some (.decode 0x800000)) ⟨0x00, 0xFF800000⟩) := by decide
/-- V39 -/
theorem test_decode_byte_order : at_ (exec (.decode 0x123456) (idle [] []))
    = some (.respond (some (.decode 0x123456)) ⟨0x00, 0x00123456⟩) := by decide
/-- V23 -/
theorem test_setgain : at_ (exec (.setgain 255) (amid (.setgain 255 .read) [(0x01, 0xC0)] [quiet]))
    = some (.setgain 255 (.write 0xC7)) := by decide
/-- V22 -/
theorem test_setgain_answer : at_ (exec (.setgain 8) (amid (.setgain 8 (.write 0x27)) [(0x01, 0x20)] [quiet]))
    = some (.respond (some (.setgain 8)) ⟨0x00, 7⟩) := by decide
/-- V24 -/
theorem test_setrate : at_ (exec (.setrate 3) (amid (.setrate 3 .read) [(0x02, 0x84)] [quiet]))
    = some (.setrate 3 (.write 0xB4)) := by decide
/-- V25 -/
theorem test_setrate_clamped : at_ (exec (.setrate 200) (amid (.setrate 200 .read) [(0x02, 0x0F)] [quiet]))
    = some (.setrate 200 (.write 0x7F)) := by decide
/-- V26 -/
theorem test_setldo : at_ (exec (.setldo 4) (amid (.setldo 4 .read) [(0x01, 0x07)] [quiet]))
    = some (.setldo 4 (.write 0x27)) := by decide
/-- P4: the hundredth poll still reads 0 -/
theorem test_begin_last_poll :
    let t := nextOf (exec (.begin 0 0 0) { amid (.begin 0 0 0 .purPoll) [(0x00, 0x06)] [quiet] with calState := 1, iter := 99 })
    t.calState = 6 ∧ t.fcause = 0x02 ∧ t.run = some (.respond (some (.begin 0 0 0)) ⟨0x02, 0⟩) := by decide
/-- P1 -/
theorem test_begin_chop : event (exec (.begin 4 7 3) (amid (.begin 4 7 3 .chop) [] [quiet]))
    = some (.wr 0x2A 0x15 0x30 true) := by decide
/-- V47 -/
theorem test_calafe_start : at_ (exec (.calafe 1000) (amid (.calafe 1000 (.start .read)) [(0x02, 0x30)] [quiet]))
    = some (.calafe 1000 (.start (.write 0x34))) := by decide
/-- V48 -/
theorem test_calafe_error :
    at_ (exec (.calafe 1000) (amid (.calafe 1000 (.wait (.stat .errorBit))) [(0x02, 0x38)] [quiet]))
      = some (.respond (some (.calafe 1000)) ⟨0x04, 0⟩) := by decide
/-- V45: the test `1 > 1` fails -/
theorem test_waitcal_strict :
    at_ (exec (.waitcal 1) { amid (.waitcal 1 .clock) [] [quiet] with now := 1 }) = some (.waitcal 1 .pause) := by decide
/-- P5 c: no time test with a timeout of -1 -/
theorem test_waitcal_ungated :
    at_ (exec (.waitcal (-1)) (amid (.waitcal (-1) (.stat .startBit)) [(0x02, 0x34)] [quiet]))
      = some (.waitcal (-1) .pause) := by decide
/-- V43 -/
theorem test_calstat_both : at_ (exec .calstat (amid (.calstat .startBit) [(0x02, 0x3C)] [quiet]))
    = some (.respond (some .calstat) ⟨0x00, 0⟩) := by decide
/-- V42 -/
theorem test_calstat_error : at_ (exec .calstat (amid (.calstat .errorBit) [(0x02, 0x38)] [quiet]))
    = some (.respond (some .calstat) ⟨0x00, 2⟩) := by decide
/-- P2 -/
theorem test_calzero :
    let t := nextOf (exec (.calzero 4)
      { amid (.calzero 4 .sample) (sampleBytes 0x00 0x00 0x64) [quiet] with acc := 300, k := 3 })
    t.zoff = 100 ∧ t.run = some (.respond (some (.calzero 4)) ⟨0x00, 100⟩) := by decide
/-- V58 -/
theorem test_calzero_zero : at_ (exec (.calzero 0) (idle [] []))
    = some (.respond (some (.calzero 0)) ⟨0x0E, 0⟩) := by decide
/-- R141's examples -/
theorem test_avail : at_ (exec .avail (amid .avail [(0x00, 0x3E)] [quiet]))
    = some (.respond (some .avail) ⟨0x00, 1⟩) := by decide
theorem test_avail_not : at_ (exec .avail (amid .avail [(0x00, 0x1E)] [quiet]))
    = some (.respond (some .avail) ⟨0x00, 0⟩) := by decide
/-- V67 -/
theorem test_getrd : at_ (exec .getrd (amid (.getrd .sample) (sampleBytes 0xFF 0xFF 0xFE) [quiet]))
    = some (.respond (some .getrd) ⟨0x00, 0xFFFFFFFE⟩) := by decide
theorem test_getrd_not_ready : at_ (exec .getrd (amid (.getrd .poll) [(0x00, 0x1E)] [quiet]))
    = some (.getrd .pause) := by decide
/-- V53 -/
theorem test_getavg :
    at_ (exec (.getavg 2) { amid (.getavg 2 .sample) (sampleBytes 0xFF 0xFF 0xF8) [quiet] with acc := -7, k := 1 })
      = some (.respond (some (.getavg 2)) ⟨0x00, 0xFFFFFFF9⟩) := by decide
/-- P6 -/
theorem test_getavg_budget :
    at_ (exec (.getavg 8) { amid (.getavg 8 .clock) [] [quiet] with now := 1001 })
      = some (.respond (some (.getavg 8)) ⟨0x05, 0⟩) := by decide
/-- V60 -/
theorem test_getled :
    at_ (exec (.getled false) { amid (.getled false .sample) (sampleBytes 0x00 0x00 0x61) [quiet] with zoff := 100 })
      = some (.respond (some (.getled false)) ⟨0x00, 0xFFFFFFFD⟩) := by decide
/-- V60 -/
theorem test_getled_clamped :
    at_ (exec (.getled true) { amid (.getled true .sample) (sampleBytes 0x00 0x00 0x61) [quiet] with zoff := 100 })
      = some (.respond (some (.getled true)) ⟨0x00, 0⟩) := by decide
/-- P3: the commit -/
theorem test_scan_commit :
    let t := nextOf (exec .scan
      { amid (.scan .lightOff) [] [quiet] with ch := 7, w := #v[10, 0, -5, 1000, -1, 250, 99900, -150], ledonValid := true,
                                               ledonIdx := 7 })
    t.sr = #v[10, 0, -5, 1000, -1, 250, 99900, -150] ∧ t.srv = true ∧ t.trace = [.led 7 false] := by decide
/-- P7: the failure action -/
theorem test_scan_fault :
    at_ (exec .scan { amid (.scan (.reading .sample)) [] [faulty 0] with ch := 3, ledonValid := true, ledonIdx := 3 })
      = some (.scan (.abort .busFault)) := by decide
/-- R154's example -/
theorem test_rdsr :
    at_ (exec (.rdsr 2) { idle [] [] with sr := #v[10, 0, -5, 1000, -1, 250, 99900, -150], srv := true })
      = some (.respond (some (.rdsr 2)) ⟨0x00, 0xFFFFFFFB⟩) := by decide
/-- V72 -/
theorem test_rdsr_no_data : at_ (exec (.rdsr 0) State.reset) = some (.respond (some (.rdsr 0)) ⟨0x06, 0⟩) := by decide
/-- V74 -/
theorem test_rdstate : at_ (exec .rdstate { idle [] [] with calState := 6, fcause := 0x02 })
    = some (.respond (some .rdstate) ⟨0x00, 0x00000206⟩) := by decide
/-- V75 -/
theorem test_rdstate_valid : at_ (exec .rdstate { idle [] [] with calState := 5, srv := true })
    = some (.respond (some .rdstate) ⟨0x00, 0x0000000D⟩) := by decide
/-- R156's example -/
theorem test_rdzoff : at_ (exec .rdzoff { idle [] [] with zoff := 100 })
    = some (.respond (some .rdzoff) ⟨0x00, 100⟩) := by decide
/-- V9e -/
theorem test_illegal_word : at_ (step (offered 0x00000000 [])) = some (.respond none ⟨0x0F, 0⟩) := by decide
/-- V78: reset in the course of a scan -/
theorem test_reset :
    let t := nextOf (step { amid (.scan .lightOff) [(0x01, 0x27)] [resets false] with srv := true, zoff := 100, calState := 5 })
    t.srv = false ∧ t.zoff = 0 ∧ t.calState = 0 ∧ t.busy = false ∧ t.dev = [(0x01, 0x27)] := by decide

/-! ## Witnesses: for each statement with hypotheses, and each of its clauses, a state and operands that meet them -/

/-- A block amid a `SCAN`, channel 2 lit, a word waiting. -/
def scanning : State :=
  { amid (.scan .settle) [(0x00, 0x20)] [quiet] with
    ch := 2, led := (Vector.replicate 8 false).set 2 true, ledonValid := true, ledonIdx := 2, port := [0x20000000],
    trace := [.led 2 true, .accept 0x30000000] }

theorem witness_EncodeOfDecodeGivesTheWord : decode 0x31000007 = some (.rdsr 7) := by decide

theorem witness_LegalExactlyWhenOneTableRowMatches :
    ∃ r, r ∈ opcodeTable ∧ (0x31000007 : Word) &&& r.format.mask = r.pattern := by decide

theorem witness_StepRunsTheDecodedCommand_accept :
    (offered 0x01000005 []).scriptedReset = none ∧ (offered 0x01000005 []).busy = false
      ∧ (offered 0x01000005 []).port = 0x01000005 :: [] ∧ decode 0x01000005 = some (.getbit 0x00 5) := by decide

theorem witness_StepRunsTheDecodedCommand_busy :
    scanning.scriptedReset = none ∧ scanning.busy = true ∧ scanning.run = some (.scan .settle)
      ∧ (Running.scan .settle).instr = some .scan := by decide

theorem witness_BusyBlockAcceptsNoWord :
    scanning.busy = true ∧ step scanning = .next (nextOf (step scanning)) ∧ scanning.scriptedReset = none
      ∧ ∀ r, scanning.run = some r → r.instr ≠ some .avail := by
  refine ⟨rfl, rfl, rfl, ?_⟩
  rintro r ⟨rfl⟩
  decide

theorem witness_IllegalWordHasNoSideEffect :
    (offered 0x11000000 []).busy = false ∧ (offered 0x11000000 []).scriptedReset = none
      ∧ (offered 0x11000000 []).port = 0x11000000 :: [] ∧ decode 0x11000000 = none := by decide

theorem witness_ResetValuesAndWhatResetLeaves_idle :
    (idle [] [resets true]).scriptedReset = some true ∧ (idle [] [resets true]).busy = false := by decide
theorem witness_ResetValuesAndWhatResetLeaves_busy :
    (amid .avail [] [resets false]).scriptedReset = some false ∧ (amid .avail [] [resets false]).busy = true := by decide

theorem witness_ResetMayCutAnInteractionShort_setbit :
    let s := amid (.setbit 0x1C 7 (.write 0x85)) [] [resets true]
    s.scriptedReset = some true ∧ s.busy = true ∧ s.run = some (.setbit 0x1C 7 (.write 0x85)) := by decide
theorem witness_ResetMayCutAnInteractionShort_clrbit :
    let s := amid (.clrbit 0x1C 7 (.write 0x05)) [] [resets false]
    s.scriptedReset = some false ∧ s.busy = true ∧ s.run = some (.clrbit 0x1C 7 (.write 0x05)) := by decide
theorem witness_ResetMayCutAnInteractionShort_scan :
    let s := amid (.scan .lightOn) [] [resets true]
    s.scriptedReset = some true ∧ s.busy = true ∧ s.run = some (.scan .lightOn) := by decide
theorem witness_ResetMayCutAnInteractionShort_light_off :
    let s := { amid (.scan (.abort .busFault)) [] [resets true] with ledonIdx := 3 }
    s.scriptedReset = some true ∧ s.busy = true ∧ s.switches = some (3, false) := by decide
theorem witness_ResetMayCutAnInteractionShort_begin :
    let s := amid (.begin 4 7 3 .chop) [] [resets true]
    s.scriptedReset = some true ∧ s.busy = true ∧ s.stores = some (0x15, 0x30) := by decide
theorem witness_ResetMayCutAnInteractionShort_getrd :
    let s := amid (.getrd .poll) [] [resets true]
    s.scriptedReset = some true ∧ s.busy = true ∧ s.run = some (.getrd .poll) := by decide

/-- GETBIT, AVAIL, and the read-modify-write commands: not busy, and no fault at the first two interactions. -/
theorem witness_no_fault :
    let s := idle [(0x00, 0x20)] [quiet, quiet]
    s.busy = false ∧ (s.moveAt 0).busFault = none ∧ (s.moveAt 1).busFault = none := by decide
/-- The same, the second interaction faulting. -/
theorem witness_write_fault :
    let s := idle [(0x00, 0x20)] [quiet, faulty 0x55]
    s.busy = false ∧ (s.moveAt 0).busFault = none ∧ (s.moveAt 1).busFault = some 0x55 := by decide
/-- The same, the first interaction faulting. -/
theorem witness_read_fault :
    let s := idle [(0x00, 0x20)] [faulty 0x55]
    s.busy = false ∧ (s.moveAt 0).busFault = some 0x55 ∧ (s.moveAt 0).busFault.isSome = true := by decide

theorem witness_ClampSaturatesAtSeven :
    Config.default.fieldMax = 7 ∧ (7 : Byte).toNat ≤ 7 ∧ ¬ (8 : Byte).toNat ≤ 7 := by decide

theorem witness_BitAndFieldMasksTouchOnlyTheirBits :
    7 < 8 ∧ (5 : BitVec 3).toNat ≤ 5 ∧ (7 : Byte).toNat ≤ 7 ∧ (5 : BitVec 3).toNat ≤ 7 ∧ 7 ≤ (5 : BitVec 3).toNat + 2 := by
  decide

/-- A command's start: DECODE, RDSR, RDSTATE, RDZOFF, and the field commands. -/
theorem witness_not_busy : State.reset.busy = false := by decide

theorem witness_RdstateAnswersTheStateWord : State.reset.busy = false ∧ State.reset.CalInv :=
  ⟨rfl, by decide, by decide, by decide, nofun, fun _ => .inl rfl⟩

/-- The script of `BEGIN`'s shortest run: 27 moves, at the three polls the device sets the register polled. -/
def beginScript : List Move :=
  List.replicate 10 quiet ++ [sets 0x00 0x0E] ++ List.replicate 12 quiet ++ [sets 0x02 0x30, sets 0x02 0x30, quiet, quiet]

theorem witness_BeginShortestRunEndsReady :
    let s := idle [] beginScript
    let acts := beginActs s.cfg 4 7 3
    s.busy = false ∧ s.NoFault 27 ∧ s.sees (acts.take 6) s.cfg.regMap.fPur = true
      ∧ s.sees (acts.take 14) s.cfg.regMap.fCals = false ∧ s.sees (acts.take 15) s.cfg.regMap.fCalerr = false := by
  unfold State.NoFault
  decide

/-- A failing step of `BEGIN`: its first read faults. -/
theorem witness_BeginFailureIsRecorded_fault :
    let s := amid (.begin 4 7 3 (.resetSet .read)) [] [faulty 0]
    let t := nextOf (exec (.begin 4 7 3) s)
    exec (.begin 4 7 3) s = .next t ∧ s.busy = true ∧ s.run = some (.begin 4 7 3 (.resetSet .read))
      ∧ t.run = some (.respond (some (.begin 4 7 3)) ⟨0x01, 0⟩) ∧ (s.moveAt 0).busFault.isSome = true
      ∧ t.trace = .rd 0x2A 0x00 none :: [] ∧ (Event.rd 0x2A 0x00 none).busDevice.isSome = true ∧ s.storesTo = none :=
  ⟨rfl, by decide⟩
/-- The last step of `BEGIN` before its response. -/
theorem witness_BeginFailureIsRecorded_success :
    let s := amid (.begin 4 7 3 (.afe (.convert (.write 0x1E)))) [] [quiet]
    let t := nextOf (exec (.begin 4 7 3) s)
    exec (.begin 4 7 3) s = .next t ∧ s.busy = true
      ∧ t.run = some (.respond (some (.begin 4 7 3)) ⟨0x00, 0⟩) := ⟨rfl, by decide⟩

/-- The hundredth poll of `PowerUp`, one that reads 0, one that reads 1; the ninety-ninth that reads 0. -/
theorem witness_PowerUpPollsAreCounted_last :
    let s := { amid (.begin 0 0 0 .purPoll) [(0x00, 0x06)] [quiet] with iter := 99 }
    s.busy = true ∧ s.run = some (.begin 0 0 0 .purPoll) ∧ (s.moveAt 0).busFault = none
      ∧ s.bitAt 0 s.cfg.regMap.fPur = false ∧ s.iter + 1 = s.cfg.puPollMax := by decide
theorem witness_PowerUpPollsAreCounted_ready :
    let s := { amid (.begin 0 0 0 .purPoll) [(0x00, 0x0E)] [quiet] with iter := 99 }
    s.busy = true ∧ (s.moveAt 0).busFault = none ∧ s.bitAt 0 s.cfg.regMap.fPur = true := by decide
theorem witness_PowerUpPollsAreCounted_again :
    let s := { amid (.begin 0 0 0 .purPoll) [(0x00, 0x06)] [quiet] with iter := 98 }
    s.busy = true ∧ (s.moveAt 0).busFault = none ∧ s.bitAt 0 s.cfg.regMap.fPur = false
      ∧ s.iter + 1 ≠ s.cfg.puPollMax := by decide

theorem witness_OnlyBeginMovesTheCalibrationState :
    (∀ l g r, Instr.scan ≠ .begin l g r) ∧ exec .scan scanning = .next (nextOf (exec .scan scanning)) :=
  ⟨nofun, rfl⟩

theorem witness_CalstatAnswersTheStatus :
    (((idle [(0x02, 0x34)] [quiet]).moveAt 0).busFault = none
        ∧ (idle [(0x02, 0x34)] [quiet]).bitAt 0 RegMap.default.fCals = true)
      ∧ (((idle [(0x02, 0x38)] [quiet, quiet]).moveAt 0).busFault = none
        ∧ (idle [(0x02, 0x38)] [quiet, quiet]).bitAt 0 RegMap.default.fCals = false
        ∧ ((idle [(0x02, 0x38)] [quiet, quiet]).moveAt 1).busFault = none)
      ∧ ((idle [(0x02, 0x38)] [quiet, faulty 0]).bitAt 0 RegMap.default.fCals = false
        ∧ ((idle [(0x02, 0x38)] [quiet, faulty 0]).moveAt 1).busFault.isSome = true) := by decide

/-- A wait with a timeout of 1 ms: one poll in progress, the time test at its boundary, then the end. -/
theorem witness_WaitcalAnswersWhenTheCalibrationEnds_timed :
    let s := idle [(0x02, 0x34)] [takes 7, quiet, takes 1, quiet, sets 0x02 0x30, quiet]
    s.busy = false ∧ 0 < timeoutMs 1 ∧ s.NoFault (3 * 1 + 3)
      ∧ (∀ j, j < 1 → s.bitAt (3 * j + 1) s.cfg.regMap.fCals = true)
      ∧ (∀ j, j < 1 →
        (elapsedSince (s.nowAfter s.waitWaits 1) (s.nowAfter s.waitWaits (3 * j + 3))).toNat ≤ timeoutMs 1)
      ∧ (elapsedSince (s.nowAfter s.waitWaits 1) (s.nowAfter s.waitWaits 3)).toNat = timeoutMs 1
      ∧ s.bitAt (3 * 1 + 1) s.cfg.regMap.fCals = false := by
  unfold State.NoFault
  decide
/-- A wait with a timeout of 0: one poll in progress, then the end. -/
theorem witness_WaitcalAnswersWhenTheCalibrationEnds_untimed :
    let s := idle [(0x02, 0x34)] [quiet, quiet, takes 5000, sets 0x02 0x30, quiet]
    s.busy = false ∧ ¬ 0 < timeoutMs 0 ∧ s.NoFault (2 * 1 + 3)
      ∧ (∀ j, j < 1 → s.bitAt (2 * j + 1) s.cfg.regMap.fCals = true)
      ∧ s.bitAt (2 * 1 + 1) s.cfg.regMap.fCals = false := by
  unfold State.NoFault
  decide

/-- `WaitCal` inside each of its three commands, at each of its positions; the time test at its boundary. -/
theorem witness_WaitcalTimeTestIsStrictAndAfterTheStatus_commands :
    Waits Config.default (.waitcal 1000) 1000 (.waitcal 1000) (.respond (some (.waitcal 1000)) ⟨0x00, 1⟩)
      ∧ Waits Config.default (.calafe 0) 0 (fun p => .calafe 0 (.wait p)) (.calafe 0 (.convert .read))
      ∧ Waits Config.default (.begin 4 7 3) 1000 (fun p => .begin 4 7 3 (.afe (.wait p)))
          (.begin 4 7 3 (.afe (.convert .read))) :=
  ⟨.waitcal 1000, .calafe 0, .begin 4 7 3⟩
theorem witness_WaitcalTimeTestIsStrictAndAfterTheStatus :
    let s := fun (p : WaitPos) (now : Word) =>
      { amid (.begin 4 7 3 (.afe (.wait p))) [(0x02, 0x34)] [quiet] with now := now }
    (∀ p : WaitPos, (s p 1000).busy = true ∧ (s p 1000).run = some (.begin 4 7 3 (.afe (.wait p)))
        ∧ ((s p 1000).moveAt 0).busFault = none)
      ∧ ((((s .clock 1000).environ 0).now - (s .clock 1000).t0).toNat : Int) ≤ timeoutMs 1000
      ∧ timeoutMs 1000 < (((s .clock 1001).environ 0).now - (s .clock 1001).t0).toNat
      ∧ (s (.stat .errorBit) 0).bitAt 0 RegMap.default.fCalerr = false
      ∧ { s (.stat .errorBit) 0 with dev := [(0x02, 0x38)] }.bitAt 0 RegMap.default.fCalerr = true :=
  ⟨fun _ => ⟨rfl, rfl, rfl⟩, by decide⟩

/-- `CALAFE` with the timeout 1 ms: one poll in progress, its time test at the boundary, then a poll that reads
`polled`, after `late` milliseconds more. -/
def calafeState (polled : Byte) (late : Word) : State :=
  idle [(0x00, 0x0E), (0x02, 0x30)]
    [quiet, quiet, takes 7, sets 0x02 0x34, takes 1, quiet, sets 0x02 polled, takes late, quiet, quiet, quiet]
theorem witness_CalafeSetsBothBitsOnSuccess :
    let polls := afePolls Config.default (timeoutMs 1)
    let cals := RegMap.default.fCals
    let calerr := RegMap.default.fCalerr
    (∀ s, s ∈ [calafeState 0x30 0, calafeState 0x38 0, calafeState 0x34 1] → s.busy = false
        ∧ (∀ j, j < 1 → s.sees (polls j) cals = true) ∧ 0 < timeoutMs 1
        ∧ (∀ j, j < 1 → (s.afeElapsed (timeoutMs 1) j).toNat ≤ timeoutMs 1)
        ∧ (s.afeElapsed (timeoutMs 1) 0).toNat = timeoutMs 1
        ∧ (∀ j, j < (s.play (polls 1)).count + 4 → (s.moveAt j).busFault = none))
      ∧ ((calafeState 0x30 0).sees (polls 1) cals = false
        ∧ (calafeState 0x30 0).sees (polls 1 ++ [.get cals]) calerr = false)
      ∧ ((calafeState 0x38 0).sees (polls 1) cals = false
        ∧ (calafeState 0x38 0).sees (polls 1 ++ [.get cals]) calerr = true)
      ∧ ((calafeState 0x34 1).sees (polls 1) cals = true
        ∧ timeoutMs 1 < ((calafeState 0x34 1).afeElapsed (timeoutMs 1) 1).toNat) := by decide
/-- `CALAFE` with no timeout and no poll in progress. -/
theorem witness_CalafeSetsBothBitsOnSuccess_untimed :
    let s := idle [(0x00, 0x0E), (0x02, 0x30)] [quiet, quiet, quiet, sets 0x02 0x30, quiet, quiet, quiet]
    s.busy = false ∧ ¬ 0 < timeoutMs 0 ∧ s.sees (afePolls s.cfg (timeoutMs 0) 0) s.cfg.regMap.fCals = false := by decide

/-- Two samples, the time test between them at its boundary: exactly the budget has passed. -/
def samplingState : State :=
  idle ((0x00, 0x20) :: sampleBytes 0xFF 0xFF 0xF9) [quiet, quiet, quiet, takes 1000, quiet, quiet, quiet]
theorem witness_SamplesInTime_one : samplingState.busy = false ∧ countFits samplingState.cfg 1 = true ∧ samplingState.SamplesInTime 1 := by
  refine ⟨rfl, by decide, by decide, ?_⟩
  intro m hm
  omega
theorem witness_SamplesInTime_two :
    samplingState.busy = false ∧ countFits samplingState.cfg 2 = true ∧ samplingState.SamplesInTime 2
      ∧ samplingState.cfg.avgBudgetMs
        = elapsedSince (samplingState.nowAfter samplingState.averageWaits 1)
            (samplingState.nowAfter samplingState.averageWaits 4) := by
  refine ⟨rfl, by decide, ⟨by decide, ?_⟩, by decide⟩
  intro m hm
  obtain rfl : m = 0 := by omega
  decide

/-- Statements over any command and its next state. -/
theorem witness_exec_next :
    let s := { amid (.calzero 4 .sample) [] [quiet] with k := 3 }
    exec (.calzero 4) s = .next (nextOf (exec (.calzero 4) s)) := rfl

theorem witness_ReadyAfter_none : (idle [(0x00, 0x20)] [quiet, quiet]).busy = false
    ∧ (idle [(0x00, 0x20)] [quiet, quiet]).ReadyAfter 0 := by
  unfold State.ReadyAfter State.NoFault
  decide
theorem witness_ReadyAfter_one : (idle [] [quiet, quiet, sets 0x00 0x20, quiet]).busy = false
    ∧ (idle [] [quiet, quiet, sets 0x00 0x20, quiet]).ReadyAfter 1 := by
  unfold State.ReadyAfter State.NoFault
  decide
/-- `GETLED.NN` clamps: the difference is negative. -/
theorem witness_GetledAnswersTheOffsetReading :
    let s := { idle ((0x00, 0x20) :: sampleBytes 0x00 0x00 0x61) [quiet, quiet] with zoff := 100 }
    s.ReadyAfter 0 ∧ (s.sampleAt 1).toInt - s.zoff.toInt < 0 := by
  unfold State.ReadyAfter State.NoFault
  decide

theorem witness_GetrdNeverEndsWithoutTheDevice_reading :
    let s := amid (.scan (.reading .poll)) [] [quiet, quiet, quiet, quiet]
    Reads .scan (fun p => .scan (.reading p)) ∧ s.busy = true ∧ s.run = some (.scan (.reading .poll))
      ∧ ∀ j, j < 2 → (s.moveAt (2 * j)).busFault = none ∧ s.bitAt (2 * j) s.cfg.regMap.fCr = false :=
  ⟨.scan, by decide⟩
theorem witness_GetrdNeverEndsWithoutTheDevice_waiting :
    let s := amid (.calafe 0 (.wait (.stat .startBit))) [(0x02, 0x34)] [quiet, quiet, quiet, quiet]
    Waits s.cfg (.calafe 0) (timeoutMs 0) (fun p => .calafe 0 (.wait p)) (.calafe 0 (.convert .read))
      ∧ timeoutMs 0 ≤ 0 ∧ s.busy = true ∧ s.run = some (.calafe 0 (.wait (.stat .startBit)))
      ∧ ∀ j, j < 2 → (s.moveAt (2 * j)).busFault = none ∧ s.bitAt (2 * j) s.cfg.regMap.fCals = true :=
  ⟨.calafe 0, by decide⟩
theorem witness_GetrdNeverEndsWithoutTheDevice_accept :
    let s := idle [] [quiet, quiet, quiet, quiet]
    s.busy = false
      ∧ ∀ j, j < 2 → (s.moveAt (2 * j)).busFault = none ∧ s.bitAt (2 * j) s.cfg.regMap.fCr = false := by decide

/-- The last and the last but one sample, the budget just kept and just exceeded, inside each of the two commands. -/
theorem witness_AverageTestsTheCountBeforeTheTime :
    let s := fun (r : AvgPos → Running) (p : AvgPos) (k : BitVec 16) (now : Word) =>
      { amid (r p) [(0x00, 0x20)] [quiet] with k := k, now := now }
    (Averages 2 (.getavg 2) (.getavg 2) ∧ Averages 2 (.calzero 2) (.calzero 2))
      ∧ (∀ (r : AvgPos → Running) (p : AvgPos) k now, (s r p k now).busy = true ∧ (s r p k now).run = some (r p)
        ∧ ((s r p k now).moveAt 0).busFault = none)
      ∧ (s (.calzero 2) .sample 1 5000).k + 1 = 2 ∧ (s (.calzero 2) .sample 0 0).k + 1 ≠ 2
      ∧ (((s (.calzero 2) .clock 0 1000).environ 0).now - (s (.calzero 2) .clock 0 1000).t0).toNat
        ≤ (s (.calzero 2) .clock 0 1000).cfg.avgBudgetMs.toNat
      ∧ (s (.calzero 2) .clock 0 1001).cfg.avgBudgetMs.toNat
        < (((s (.calzero 2) .clock 0 1001).environ 0).now - (s (.calzero 2) .clock 0 1001).t0).toNat :=
  ⟨⟨.getavg, .calzero⟩, fun _ _ _ _ => ⟨rfl, rfl, rfl⟩, by decide⟩

theorem witness_ZeroCountIsRefusedBeforeAnyInteraction :
    State.reset.busy = false ∧ (0 : BitVec 16) = 0 ∧ (1 : BitVec 16) ≠ 0 ∧ 1 ≤ State.reset.cfg.nmax
      ∧ State.reset.cfg.nmax = 65535 ∧ (65535 : BitVec 16) ≤ State.reset.cfg.nmax
      ∧ { Config.default with nmax := 2 }.nmax < (3 : BitVec 16) := by decide

/-- The sizes R8 states: DECODE, the decoder, the mean and the difference. -/
theorem witness_sizes : Config.default.sampleBits = 24 ∧ 32 ≤ Config.default.xlen ∧ Config.default.sizesFit = true := by
  decide

theorem witness_MeanRoundsTowardZero :
    (1 : BitVec 16) ≠ 0
      ∧ -((1 : BitVec 16).toNat * 2 ^ 23 : Int) ≤ (BitVec.ofInt 48 (-(2 ^ 23))).toInt
      ∧ (BitVec.ofInt 48 (-(2 ^ 23))).toInt ≤ 0
      ∧ (0x7FFFFF#48).toInt ≤ (1 : BitVec 16).toNat * (2 ^ 23 - 1) ∧ 0 ≤ (0x7FFFFF#48).toInt := by decide

theorem witness_OffsetReadingIsExact : IsSample 0x007FFFFF ∧ IsSample 0xFF800000 := by
  unfold IsSample
  decide

/-- Eight channels, every poll ready. -/
theorem witness_ScanCommitsEightReadings :
    let s := idle [(0x00, 0x20)] (List.replicate 40 quiet)
    s.busy = false ∧ s.cfg.sizesFit = true ∧ s.cfg.nch.toNat = 8
      ∧ ∀ c, c < 8 → (s.moveAt (5 * c + 2)).busFault = none ∧ (s.moveAt (5 * c + 3)).busFault = none
        ∧ s.bitAt (5 * c + 2) s.cfg.regMap.fCr = true := by decide

theorem witness_OnlyTheLastStepOfScanWritesResults :
    let s := { amid (.scan .lightOff) [] [quiet] with ch := 7, ledonValid := true, ledonIdx := 7 }
    exec .scan s = .next (nextOf (exec .scan s)) ∧ s.run = some (.scan .lightOff) ∧ s.ch + 1 = s.cfg.nch := ⟨rfl, by decide⟩

theorem witness_ScanFailureTurnsTheChannelOff :
    let s := fun p => { amid (.scan (.reading p)) [] [faulty 0] with ch := 3, ledonValid := true, ledonIdx := 3 }
    (s .sample).busy = true ∧ (s .sample).run = some (.scan (.reading .sample)) ∧ ReadPos.sample ≠ .pause
      ∧ ReadPos.poll ≠ .pause ∧ (s .sample).ledonValid = true ∧ ((s .sample).moveAt 0).busFault.isSome = true := by decide

theorem witness_EachStepIsOneInteraction_busy :
    step scanning = .next (nextOf (step scanning)) ∧ scanning.scriptedReset = none ∧ scanning.busy = true
      ∧ scanning.run ≠ none := ⟨rfl, by decide⟩
theorem witness_EachStepIsOneInteraction_accept :
    let s := offered 0x20000000 []
    step s = .next (nextOf (step s)) ∧ s.scriptedReset = none ∧ s.busy = false ∧ s.port = 0x20000000 :: [] :=
  ⟨rfl, by decide⟩

theorem witness_AnyBusFaultEndsTheCommand_scan :
    let s := { amid (.scan (.reading .poll)) [] [faulty 0] with ch := 3, ledonValid := true, ledonIdx := 3 }
    exec .scan s = .next (nextOf (exec .scan s)) ∧ s.busy = true ∧ s.run = some (.scan (.reading .poll))
      ∧ (Running.scan (.reading .poll)).instr = some .scan ∧ (s.moveAt 0).busFault.isSome = true
      ∧ (nextOf (exec .scan s)).trace = .rd 0x2A 0x00 none :: s.trace ∧ (Event.rd 0x2A 0x00 none).busDevice.isSome = true
      ∧ s.ledonValid = true := ⟨rfl, by decide⟩
theorem witness_AnyBusFaultEndsTheCommand_begin :
    let s := amid (.begin 4 7 3 .chop) [] [faulty 0]
    exec (.begin 4 7 3) s = .next (nextOf (exec (.begin 4 7 3) s)) ∧ s.busy = true ∧ s.run = some (.begin 4 7 3 .chop)
      ∧ (Running.begin 4 7 3 .chop).instr = some (.begin 4 7 3) ∧ (s.moveAt 0).busFault.isSome = true
      ∧ (nextOf (exec (.begin 4 7 3) s)).trace = .wr 0x2A 0x15 0x30 false :: s.trace
      ∧ (Event.wr 0x2A 0x15 0x30 false).busDevice.isSome = true := ⟨rfl, by decide⟩

theorem witness_DelayIsALowerBound :
    let s := idle [] [takes 1500]
    s.cfg.timeProfile = .lowerBound ∧ (1000 : Word).toNat ≤ (1500 : Word).toNat ∧ s.script = takes 1500 :: []
      ∧ (takes 1500).elapse = 1500
      ∧ { State.reset with cfg := { Config.default with timeProfile := .exact } }.cfg.timeProfile = .exact := by decide

theorem witness_OnlyBusWritesStoreToTheDevice_write :
    let s := amid (.setbit 0xFF 0 (.write 0x01)) [] [quiet]
    step s = .next (nextOf (step s)) ∧ s.scriptedReset = none ∧ s.stores = some (0xFF, 0x01) ∧ Memory.wf s.dev = true
      ∧ (0x00 : Byte) ≠ 0xFF := ⟨rfl, by decide⟩
theorem witness_OnlyBusWritesStoreToTheDevice_other :
    scanning.stores = none ∧ scanning.busy = true ∧ scanning.switches = none
      ∧ (amid (.scan .lightOn) [] []).switches = some (0, true)
      ∧ State.reset.stores = none ∧ State.reset.port = [] ∧ State.reset.scriptedReset = none
      ∧ (offered 0x20000000 []).busy = false ∧ (offered 0x20000000 []).port ≠ [] := by decide

theorem witness_NoCommandIsGatedByTheCalibrationState :
    (∀ l g r, Instr.avail ≠ .begin l g r) ∧ Instr.avail ≠ .rdstate
      ∧ exec .avail State.reset = .next (nextOf (exec .avail State.reset)) :=
  ⟨nofun, by decide, rfl⟩

/-- The invariants hold in the course of a scan, and it takes a step. -/
theorem witness_StepKeeps_scanning :
    step scanning = .next (nextOf (step scanning)) ∧ scanning.BusyInv ∧ scanning.CalInv ∧ scanning.RangeInv
      ∧ scanning.PollInv ∧ scanning.LedInv ∧ scanning.scriptedReset = none ∧ scanning.OrderInv ∧ scanning.CauseInv
      ∧ Memory.wf scanning.dev = true := by
  refine ⟨rfl, by unfold State.BusyInv; decide, ⟨by decide, by decide, by decide, nofun, fun _ => .inl rfl⟩, ?_, ?_, ?_, rfl,
    by unfold State.OrderInv; decide, ?_, by decide⟩
  · refine ⟨by decide, by unfold IsSample; decide, by unfold IsDifference; decide, by decide, ?_, nofun, nofun⟩
    rintro p - ⟨rfl⟩
    exact ⟨by decide, by unfold IsDifference; decide, nofun⟩
  · intro _; nofun
  · refine ⟨by decide, by decide, ?_⟩
    intro p _ _ _
    decide
  · intro _
    exact ⟨nofun, nofun, nofun⟩

end Sys2Proof.Tests
end

section
/-! Arithmetic of the samples: the sum, the mean and the difference stay in range (R139, R140, R145). -/

namespace Sys2Proof.Machine

/-- The quotient toward zero of a sum of `n` Samples is in a Sample's range. -/
theorem tdiv_sample_range {a : Int} {n : Nat} (hn : 0 < n) (hl : -(n * 2 ^ 23 : Int) ≤ a)
    (hu : a ≤ n * (2 ^ 23 - 1)) : -(2 ^ 23) ≤ a.tdiv n ∧ a.tdiv n ≤ 2 ^ 23 - 1 := by
  have hn' : (0 : Int) < n := by exact_mod_cast hn
  rcases le_total 0 a with ha | ha
  · rw [Int.tdiv_eq_ediv_of_nonneg ha]
    have h0 : 0 ≤ a / n := Int.ediv_nonneg ha hn'.le
    have h1 : a / n ≤ 2 ^ 23 - 1 := Int.ediv_le_of_le_mul hn' (by linarith)
    omega
  · rw [← neg_neg a, Int.neg_tdiv, Int.tdiv_eq_ediv_of_nonneg (neg_nonneg.mpr ha)]
    have h0 : 0 ≤ -a / n := Int.ediv_nonneg (neg_nonneg.mpr ha) hn'.le
    have h1 : -a / n ≤ 2 ^ 23 := Int.ediv_le_of_le_mul hn' (by linarith)
    omega

theorem toNat_pos_of_ne_zero {w : Nat} {n : BitVec w} (h : n ≠ 0) : 0 < n.toNat :=
  Nat.pos_of_ne_zero fun e => h (BitVec.eq_of_toNat_eq (by simpa using e))

/-- The mean of a sum of `n` Samples is the exact quotient toward zero: no stored word overflows (R145). -/
theorem meanOf_toInt {cfg : Config} {acc : BitVec 48} {n : BitVec 16} (hx : 32 ≤ cfg.xlen) (hn : n ≠ 0)
    (hl : -(n.toNat * 2 ^ 23 : Int) ≤ acc.toInt) (hu : acc.toInt ≤ n.toNat * (2 ^ 23 - 1)) :
    (meanOf cfg acc n).toInt = acc.toInt.tdiv n.toNat := by
  obtain ⟨h0, h1⟩ := tdiv_sample_range (toNat_pos_of_ne_zero hn) hl hu
  exact wordOf_toInt hx (by omega) (by omega)

/-- The mean of a sum of `n` Samples is a Sample (R145). -/
theorem isSample_meanOf {cfg : Config} {acc : BitVec 48} {n : BitVec 16} (hx : 32 ≤ cfg.xlen) (hn : n ≠ 0)
    (hl : -(n.toNat * 2 ^ 23 : Int) ≤ acc.toInt) (hu : acc.toInt ≤ n.toNat * (2 ^ 23 - 1)) :
    IsSample (meanOf cfg acc n) := by
  rw [IsSample, meanOf_toInt hx hn hl hu]
  exact tdiv_sample_range (toNat_pos_of_ne_zero hn) hl hu

/-- A Sample added to a sum of fewer than 2^16 Samples does not overflow `ACC` (R145 b). -/
theorem accumulate_toInt {acc : BitVec 48} {v : Word} {k : BitVec 16} (hl : -(k.toNat * 2 ^ 23 : Int) ≤ acc.toInt)
    (hu : acc.toInt ≤ k.toNat * (2 ^ 23 - 1)) (hv : IsSample v) :
    (accumulate acc v).toInt = acc.toInt + v.toInt := by
  have hk := k.isLt
  obtain ⟨h0, h1⟩ := hv
  rw [accumulate, BitVec.toInt_add, BitVec.toInt_signExtend_of_le (by decide)]
  apply Int.bmod_eq_of_le <;> norm_num at * <;> omega

/-- A running sum with one more Sample is a sum of one more Sample (R139). -/
theorem sumOf_accumulate_range {s : State} {n : BitVec 16} {v : Word} (h : s.SumOf n) (hv : IsSample v) :
    (s.k + 1).toNat = s.k.toNat + 1
      ∧ -((s.k + 1).toNat * 2 ^ 23 : Int) ≤ (accumulate s.acc v).toInt
      ∧ (accumulate s.acc v).toInt ≤ (s.k + 1).toNat * (2 ^ 23 - 1) := by
  obtain ⟨hk, hl, hu⟩ := h
  have hk1 : (s.k + 1).toNat = s.k.toNat + 1 := by bv_omega
  rw [accumulate_toInt hl hu hv, hk1]
  obtain ⟨h0, h1⟩ := hv
  refine ⟨rfl, ?_, ?_⟩ <;> push_cast <;> omega

/-- The difference of two Samples is a difference of Samples: no stored word overflows (R140, R145 d). -/
theorem isDifference_offsetReading {cfg : Config} {v z : Word} (hx : 32 ≤ cfg.xlen) (hv : IsSample v)
    (hz : IsSample z) : IsDifference (offsetReading cfg false v z) := by
  obtain ⟨hv0, hv1⟩ := hv
  obtain ⟨hz0, hz1⟩ := hz
  rw [IsDifference, offsetReading, Bool.false_and, if_neg Bool.false_ne_true, wordOf_toInt hx (by omega) (by omega)]
  omega

/-- With the sizes R8 states a raw result is stored sign-extended from 24 to 32 bits (R94, R100). -/
theorem wordOf_sampleValue {cfg : Config} (hb : cfg.sampleBits = 24) (hx : 32 ≤ cfg.xlen) (u : Raw) :
    wordOf cfg (sampleValue cfg u) = u.signExtend 32 := by
  rw [wordOf_eq hx, sampleValue, hb, BitVec.setWidth_eq]
  rfl

/-- The three bytes of a 24-bit operand in order are the operand (R100). -/
theorem append_bytes_of_raw (u : Raw) : u.extractLsb' 16 8 ++ u.extractLsb' 8 8 ++ u.extractLsb' 0 8 = u := by
  apply BitVec.eq_of_toNat_eq
  have := u.isLt
  simp only [toNat_side_by_side, BitVec.extractLsb'_toNat, Nat.shiftRight_eq_div_pow]
  omega

/-- Settles O37, from the division toward zero and its remainder. -/
theorem meanRoundsTowardZero : Obligations.MeanRoundsTowardZero := by
  intro cfg acc n hx hn hl hu
  have hpos : (0 : Int) < n.toNat := by exact_mod_cast toNat_pos_of_ne_zero hn
  refine ⟨isSample_meanOf hx hn hl hu, acc.toInt.tmod n.toNat, ?_, ?_, ?_, ?_⟩
  · rw [meanOf_toInt hx hn hl hu]
    exact (Int.tdiv_mul_add_tmod _ _).symm
  · exact abs_lt.mpr ⟨Int.lt_tmod_of_pos _ hpos, Int.tmod_lt_of_pos _ hpos⟩
  · exact Int.tmod_nonneg _
  · intro ha
    have := Int.tmod_nonneg (n.toNat : Int) (neg_nonneg.mpr ha)
    rw [Int.neg_tmod] at this
    omega

end Sys2Proof.Machine
end

section
/-! What each kind of update leaves of the state, in two groups of fields: those `RangeInv` speaks of, and the record of
what happened on the ports. -/

namespace Sys2Proof.Machine

/-- The fields `RangeInv` speaks of, but for `BUSY` and the position. -/
def State.ranged (s : State) :=
  (s.cfg, s.zoff, s.sr, s.ch, s.w, s.acc, s.k)

/-- The parameters, the events so far, and the moves used and left. -/
def State.outside (s : State) :=
  (s.cfg, s.trace, s.script, s.tick)

theorem ranged_eq_iff (s t : State) :
    t.ranged = s.ranged ↔ t.cfg = s.cfg ∧ t.zoff = s.zoff ∧ t.sr = s.sr ∧ t.ch = s.ch ∧ t.w = s.w ∧ t.acc = s.acc
      ∧ t.k = s.k := by
  simp [State.ranged]

theorem outside_eq_iff (s t : State) :
    t.outside = s.outside ↔ t.cfg = s.cfg ∧ t.trace = s.trace ∧ t.script = s.script ∧ t.tick = s.tick := by
  simp [State.outside]

@[simp] theorem raise_ranged (s : State) (i : Instr) (c : Cause) : (s.raise i c).ranged = s.ranged := by
  simp [ranged_eq_iff]

@[simp] theorem raise_outside (s : State) (i : Instr) (c : Cause) : (s.raise i c).outside = s.outside := by
  simp [outside_eq_iff]

/-! ## An interaction changes no register with a range -/

@[simp] theorem accept_ranged (s : State) (cw : Word) : (s.accept cw).ranged = s.ranged := rfl
@[simp] theorem heard_ranged (s : State) (a : Byte) : (s.heard a).ranged = s.ranged := rfl
@[simp] theorem missed_ranged (s : State) (a : Byte) : (s.missed a).ranged = s.ranged := rfl
@[simp] theorem readSample_ranged (s : State) : (readSample s).2.ranged = s.ranged := by
  simp [ranged_eq_iff]
@[simp] theorem memWrite_ranged (a v : Byte) (s : State) : (memWrite a v s).2.ranged = s.ranged := by
  simp [ranged_eq_iff]
@[simp] theorem delay_ranged (k : Word) (s : State) : (delay k s).ranged = s.ranged := rfl
@[simp] theorem readNow_ranged (s : State) : (readNow s).ranged = s.ranged := rfl
@[simp] theorem ledSet_ranged (i : BitVec 3) (on : Bool) (s : State) : (ledSet i on s).ranged = s.ranged := by
  simp [ranged_eq_iff]
@[simp] theorem stamp_ranged (s : State) : s.stamp.ranged = s.ranged := rfl
@[simp] theorem countPoll_ranged (s : State) : s.countPoll.ranged = s.ranged := rfl
@[simp] theorem setCalState_ranged (c : BitVec 3) (s : State) : (setCalState c s).ranged = s.ranged := rfl
@[simp] theorem lit_ranged (s : State) (i : BitVec 3) : (s.lit i).ranged = s.ranged := rfl
@[simp] theorem unlit_ranged (s : State) : s.unlit.ranged = s.ranged := rfl

/-! ## Positions and their ranges (R28, R29) -/

/-- What `RangeInv` asks of the working registers at a position: of `SCAN`, and of the two commands that average. -/
def Running.InRange (s : State) : Running → Prop
  | .scan p =>
    s.ch < s.cfg.nch ∧ (∀ j : BitVec 3, j < channelOf s.ch → IsDifference (resultAt s.w j))
      ∧ (p = .lightOff → IsDifference (resultAt s.w (channelOf s.ch)))
  | .getavg n p => countFits s.cfg n = true ∧ (p ≠ .stamp → s.SumOf n)
  | .calzero n p => countFits s.cfg n = true ∧ (p ≠ .stamp → s.SumOf n)
  | _ => True

/-- What `RangeInv` asks of the other registers, and of the sizes. -/
def State.HeldInRange (s : State) : Prop :=
  s.cfg.sizesFit = true ∧ IsSample s.zoff ∧ (∀ i : BitVec 3, IsDifference (resultAt s.sr i)) ∧ s.ch ≤ 8

theorem rangeInv_iff (s : State) :
    s.RangeInv ↔ s.HeldInRange ∧ ∀ r, s.busy = true → s.run = some r → r.InRange s := by
  constructor
  · rintro ⟨hf, hz, hs, hc, hscan, hga, hcz⟩
    refine ⟨⟨hf, hz, hs, hc⟩, fun r hb hr => ?_⟩
    cases r with
    | scan p => exact hscan p hb hr
    | getavg n p => exact hga n p hb hr
    | calzero n p => exact hcz n p hb hr
    | _ => trivial
  · rintro ⟨⟨hf, hz, hs, hc⟩, hr⟩
    exact ⟨hf, hz, hs, hc, fun _ hb => hr _ hb, fun _ _ hb => hr _ hb, fun _ _ hb => hr _ hb⟩

theorem State.HeldInRange.congr {s t : State} (h : s.HeldInRange) (ht : t.ranged = s.ranged) : t.HeldInRange := by
  obtain ⟨hcfg, hz, hs, hc, -⟩ := (ranged_eq_iff s t).mp ht
  rwa [State.HeldInRange, hcfg, hz, hs, hc]

theorem sumOf_congr {s t : State} (ht : t.ranged = s.ranged) (n : BitVec 16) : t.SumOf n ↔ s.SumOf n := by
  obtain ⟨-, -, -, -, -, hacc, hk⟩ := (ranged_eq_iff s t).mp ht
  rw [State.SumOf, State.SumOf, hacc, hk]

theorem Running.InRange.congr {s t : State} {r : Running} (h : r.InRange s) (ht : t.ranged = s.ranged) :
    r.InRange t := by
  obtain ⟨hcfg, -, -, hc, hw, -⟩ := (ranged_eq_iff s t).mp ht
  cases r with
  | scan p => simpa only [Running.InRange, hcfg, hc, hw] using h
  | getavg n p => simpa only [Running.InRange, hcfg, sumOf_congr ht] using h
  | calzero n p => simpa only [Running.InRange, hcfg, sumOf_congr ht] using h
  | _ => trivial

/-- A block that is not busy is in range when its registers are. -/
theorem rangeInv_of_idle {s : State} (h : s.HeldInRange) (hb : s.busy = false) : s.RangeInv :=
  (rangeInv_iff s).mpr ⟨h, fun _ hb' => absurd hb' (by simp [hb])⟩

/-- A command that goes on at a position whose ranges hold. -/
theorem rangeInv_goto {u : State} (h : u.HeldInRange) {r : Running} (hr : r.InRange u) : (u.goto r).RangeInv := by
  refine (rangeInv_iff _).mpr ⟨h, fun r' _ hr' => ?_⟩
  cases hr'
  exact hr.congr rfl

/-- The same, where no register with a range has changed on the way. -/
theorem rangeInv_goto_of_same {s u : State} (h : s.HeldInRange) (hu : u.ranged = s.ranged) {r : Running}
    (hr : r.InRange s) : (u.goto r).RangeInv :=
  rangeInv_goto (h.congr hu) (hr.congr hu)

/-- A `SCAN` whose response is not yet due stands at a position of its own. -/
theorem scan_of_instr {r : Running} (hi : r.instr = some .scan) (hn : ∀ j x, r ≠ .respond j x) : ∃ p, r = .scan p := by
  cases r with
  | respond j x => exact absurd rfl (hn j x)
  | scan p => exact ⟨p, rfl⟩
  | _ => cases hi

/-- A failure keeps the ranges: the failure action of `SCAN` stands at the same channel (R152, R176). -/
theorem rangeInv_raise {s u : State} {i : Instr} {r : Running} (h : s.HeldInRange) (hu : u.ranged = s.ranged)
    (hr : r.InRange s) (hi : r.instr = some i) (hn : ∀ j x, r ≠ .respond j x) (c : Cause) :
    (u.raise i c).RangeInv := by
  have hsame : (u.raise i c).ranged = s.ranged := (raise_ranged u i c).trans hu
  refine (rangeInv_iff _).mpr ⟨h.congr hsame, fun r' _ hr' => Running.InRange.congr ?_ hsame⟩
  rcases raise_run u i c with ho | ⟨rfl, -, ho⟩ <;> cases ho.symm.trans hr'
  · trivial
  · obtain ⟨p, rfl⟩ := scan_of_instr hi hn
    obtain ⟨hc, hw, -⟩ := hr
    exact ⟨hc, hw, nofun⟩

/-! ## Shared procedures -/

/-- A read-modify-write stands at no position with a range of its own. -/
theorem rmw_back_inRange {cfg : Config} {r : Running} {m : RmwAt} (h : r.rmw cfg = some m) (p : RmwPos) (s : State) :
    (m.back p).InRange s := by
  cases r <;> try cases h
  all_goals try trivial
  case begin p =>
    cases p <;> try cases h
    all_goals try trivial
    rename_i p; cases p <;> cases h <;> trivial
  case calafe p => cases p <;> cases h <;> trivial

/-- A state in which a command goes on from `u` with no event, no register with a range changed, and at a position
without ranges of its own. -/
structure GoesOn (u t : State) : Prop where
  ranged : t.ranged = u.ranged
  outside : t.outside = u.outside
  position : ∃ r, t.run = some r ∧ ∀ s, r.InRange s

theorem GoesOn.rangeInv {s u t : State} (g : GoesOn u t) (h : s.HeldInRange) (hu : u.ranged = s.ranged) :
    t.RangeInv := by
  obtain ⟨r, hr, hp⟩ := g.position
  refine (rangeInv_iff t).mpr ⟨h.congr (g.ranged.trans hu), fun r' _ hr' => ?_⟩
  cases hr.symm.trans hr'
  exact hp t

theorem rmw_rest_goesOn {cfg : Config} {r : Running} {m : RmwAt} (h : r.rmw cfg = some m) (u : State) :
    GoesOn u (m.rest u) := by
  cases r <;> try cases h
  all_goals try exact ⟨rfl, rfl, _, rfl, fun _ => trivial⟩
  case begin p =>
    cases p <;> try cases h
    all_goals try exact ⟨rfl, rfl, _, rfl, fun _ => trivial⟩
    rename_i p; cases p <;> cases h <;> exact ⟨rfl, rfl, _, rfl, fun _ => trivial⟩
  case calafe p => cases p <;> cases h <;> exact ⟨rfl, rfl, _, rfl, fun _ => trivial⟩

theorem waiting_back_inRange {cfg : Config} {r : Running} {m : WaitAt} (h : r.waiting cfg = some m) (p : WaitPos)
    (s : State) : (m.back p).InRange s := by
  cases r <;> try cases h
  case waitcal => trivial
  case begin p => cases p <;> try cases h
                  rename_i p; cases p <;> cases h; trivial
  case calafe p => cases p <;> cases h; trivial

theorem waiting_rest_goesOn {cfg : Config} {r : Running} {m : WaitAt} (h : r.waiting cfg = some m) (u : State) :
    GoesOn u (m.rest u) := by
  cases r <;> try cases h
  case waitcal => exact ⟨rfl, rfl, _, rfl, fun _ => trivial⟩
  case begin p => cases p <;> try cases h
                  rename_i p; cases p <;> cases h; exact ⟨rfl, rfl, _, rfl, fun _ => trivial⟩
  case calafe p => cases p <;> cases h; exact ⟨rfl, rfl, _, rfl, fun _ => trivial⟩

/-- A reading in `SCAN` stays at its channel. -/
theorem gettingReading_back_inRange {r : Running} {m : ReadingAt} {s : State} (h : r.gettingReading = some m)
    (hr : r.InRange s) (p : ReadPos) : (m.back p).InRange s := by
  cases r <;> try cases h
  all_goals try trivial
  case scan q =>
    cases q <;> cases h
    obtain ⟨hc, hw, -⟩ := hr
    exact ⟨hc, hw, nofun⟩

theorem resultAt_setResult_isDifference {w : Vector Word 8} {i j : BitVec 3} {x : Word} (hx : IsDifference x)
    (h : j ≠ i → IsDifference (resultAt w j)) : IsDifference (resultAt (setResult w i x) j) := by
  rw [resultAt_setResult]
  split
  · exact hx
  · exact h (Ne.symm ‹_›)

/-- What a command does with its reading keeps the ranges: `SCAN` gathers the difference of two Samples (R152). -/
theorem gettingReading_rest_rangeInv {r : Running} {m : ReadingAt} {s u : State} {v : Word}
    (h : r.gettingReading = some m) (hh : s.HeldInRange) (hr : r.InRange s) (hu : u.ranged = s.ranged)
    (hv : IsSample v) : (m.rest v u).RangeInv := by
  replace hh := hh.congr hu
  replace hr := hr.congr hu
  cases r <;> try cases h
  case getrd => exact rangeInv_goto hh trivial
  case getled => exact rangeInv_goto hh trivial
  case scan q =>
    cases q <;> cases h
    obtain ⟨hf, hz, -, -⟩ := id hh
    obtain ⟨hc, hw, -⟩ := hr
    have hd := isDifference_offsetReading ((sizesFit_iff _).mp hf).2.2 hv hz
    exact rangeInv_goto (u := u.gather _) (r := .scan .lightOff) hh
      ⟨hc, fun j hj => resultAt_setResult_isDifference hd fun _ => hw j hj,
        fun _ => resultAt_setResult_isDifference hd fun hne => absurd rfl hne⟩

/-- The ranges of a mean's position, for both commands that average. -/
theorem averaging_back_inRange_iff {r : Running} {m : AverageAt} (h : r.averaging = some m) (p : AvgPos) (s : State) :
    (m.back p).InRange s ↔ countFits s.cfg m.count = true ∧ (p ≠ .stamp → s.SumOf m.count) := by
  cases r <;> cases h <;> rfl

theorem averaging_inRange {r : Running} {m : AverageAt} {s : State} (h : r.averaging = some m) (hr : r.InRange s) :
    countFits s.cfg m.count = true ∧ (m.pos ≠ .stamp → s.SumOf m.count) := by
  cases r <;> cases h <;> exact hr

/-- What a command does with its mean keeps the ranges: `CALZERO` makes it the offset (R122). -/
theorem averaging_rest_rangeInv {r : Running} {m : AverageAt} {u : State} {v : Word} (h : r.averaging = some m)
    (hh : u.HeldInRange) (hv : IsSample v) : (m.rest v u).RangeInv := by
  obtain ⟨hf, -, hs, hc⟩ := id hh
  cases r <;> cases h
  · exact rangeInv_goto (u := u.setZoff v) ⟨hf, hv, hs, hc⟩ trivial
  · exact rangeInv_goto hh trivial

/-- The sum starts empty, below any accepted count (R139). -/
theorem sumOf_clearSum {s : State} {n : BitVec 16} (hn : n ≠ 0) : s.clearSum.SumOf n := by
  have : (0 : BitVec 16) < n := by bv_omega
  simpa [State.SumOf]

/-- A sample short of the count leaves a sum still short of it (R139). -/
theorem sumOf_addSample {s u : State} {n : BitVec 16} {v : Word} (h : s.SumOf n) (hu : u.ranged = s.ranged)
    (hv : IsSample v) (hk : s.k + 1 ≠ n) : (u.addSample v).SumOf n := by
  obtain ⟨-, -, -, -, -, hacc, hku⟩ := (ranged_eq_iff s u).mp hu
  obtain ⟨-, hl, hup⟩ := sumOf_accumulate_range h hv
  have hlt : s.k + 1 < n := by
    have := h.1
    bv_omega
  simpa [State.SumOf, hacc, hku] using ⟨hlt, hl, hup⟩

theorem heldInRange_clearSum {s : State} (h : s.HeldInRange) : s.clearSum.HeldInRange := h

theorem heldInRange_addSample {s : State} (h : s.HeldInRange) (v : Word) : (s.addSample v).HeldInRange := h

/-- `Average` goes on, no register with a range changed (R139). -/
theorem averaging_goto_rangeInv {r : Running} {m : AverageAt} {s u : State} (h : r.averaging = some m)
    (hh : s.HeldInRange) (hr : r.InRange s) (hp : m.pos ≠ .stamp) (hu : u.ranged = s.ranged) (p : AvgPos) :
    (u.goto (m.back p)).RangeInv := by
  obtain ⟨hn, hs⟩ := averaging_inRange h hr
  exact rangeInv_goto_of_same hh hu ((averaging_back_inRange_iff h p s).mpr ⟨hn, fun _ => hs hp⟩)

/-- `Average` begins (R139). -/
theorem averageStamp_rangeInv {r : Running} {m : AverageAt} {s u : State} (h : r.averaging = some m)
    (hh : s.HeldInRange) (hr : r.InRange s) (hu : u.ranged = s.ranged) (p : AvgPos) :
    (u.clearSum.goto (m.back p)).RangeInv := by
  obtain ⟨hn, -⟩ := averaging_inRange h (hr.congr hu)
  exact rangeInv_goto (heldInRange_clearSum (hh.congr hu))
    ((averaging_back_inRange_iff h p _).mpr ⟨hn, fun _ => sumOf_clearSum ((countFits_iff _ _).mp hn).1⟩)

/-- A sample that is not the last (R139). -/
theorem averageMore_rangeInv {r : Running} {m : AverageAt} {s u : State} {v : Word} (h : r.averaging = some m)
    (hh : s.HeldInRange) (hr : r.InRange s) (hp : m.pos ≠ .stamp) (hu : u.ranged = s.ranged) (hv : IsSample v)
    (hk : s.k + 1 ≠ m.count) (p : AvgPos) : ((u.addSample v).goto (m.back p)).RangeInv := by
  obtain ⟨hn, -⟩ := averaging_inRange h (hr.congr hu)
  obtain ⟨-, hs⟩ := averaging_inRange h hr
  exact rangeInv_goto (heldInRange_addSample (hh.congr hu) v)
    ((averaging_back_inRange_iff h p _).mpr ⟨hn, fun _ => sumOf_addSample (hs hp) hu hv hk⟩)

/-- The last sample: the mean of the count's Samples is a Sample (R139, R145). -/
theorem averageLast_rangeInv {r : Running} {m : AverageAt} {s u : State} {v : Word} (h : r.averaging = some m)
    (hh : s.HeldInRange) (hr : r.InRange s) (hp : m.pos ≠ .stamp) (hu : u.ranged = s.ranged) (hv : IsSample v)
    (hk : s.k + 1 = m.count) :
    (m.rest (meanOf s.cfg (accumulate s.acc v) m.count) (u.addSample v)).RangeInv := by
  have hs := (averaging_inRange h hr).2 hp
  obtain ⟨-, hl, hup⟩ := sumOf_accumulate_range hs hv
  have hx := ((sizesFit_iff _).mp hh.1).2.2
  have hn : m.count ≠ 0 := by
    have := hs.1
    bv_omega
  rw [hk] at hl hup
  exact averaging_rest_rangeInv h (heldInRange_addSample (hh.congr hu) v) (isSample_meanOf hx hn hl hup)

/-! ## The channel of a scan -/

theorem channelOf_toNat {ch : BitVec 4} (h : ch.toNat < 8) : (channelOf ch).toNat = ch.toNat := by
  simp only [channelOf, BitVec.truncate_eq_setWidth, BitVec.toNat_setWidth]
  omega

/-- With a channel's reading gathered, the results up to that channel are differences of Samples. -/
theorem gathered_isDifference {s : State} (hf : s.cfg.sizesFit = true) (hr : (Running.scan .lightOff).InRange s)
    {j : BitVec 3} (hj : j.toNat ≤ s.ch.toNat) : IsDifference (resultAt s.w j) := by
  obtain ⟨⟨-, h8⟩, -⟩ := (sizesFit_iff _).mp hf
  obtain ⟨hc, hw, hl⟩ := hr
  have hch : (channelOf s.ch).toNat = s.ch.toNat := channelOf_toNat (by bv_omega)
  by_cases he : j = channelOf s.ch
  · exact he ▸ hl rfl
  · exact hw j (by bv_omega)

/-- The next channel of a scan is one, and all results before it are gathered (R152). -/
theorem scanOff_rangeInv {s : State} (h : s.HeldInRange) (hr : (Running.scan .lightOff).InRange s)
    (hc : s.ch + 1 ≠ s.cfg.nch) : (s.nextChannel.goto (.scan .lightOn)).RangeInv := by
  obtain ⟨hf, hz, hs, -⟩ := h
  obtain ⟨⟨-, h8⟩, -⟩ := (sizesFit_iff _).mp hf
  have hlt : s.ch < s.cfg.nch := hr.1
  have hch : (channelOf (s.ch + 1)).toNat = s.ch.toNat + 1 := by
    rw [channelOf_toNat] <;> bv_omega
  refine rangeInv_goto (u := s.nextChannel) ⟨hf, hz, hs, show s.ch + 1 ≤ 8 by bv_omega⟩
    ⟨show s.ch + 1 < s.cfg.nch by bv_omega, fun j hj => ?_, nofun⟩
  have hj' : j < channelOf (s.ch + 1) := hj
  exact gathered_isDifference (s := s) hf hr (by bv_omega)

/-- The results of a finished scan are differences of Samples, and `CH` is their number (R152). -/
theorem scanLast_rangeInv {s : State} (h : s.HeldInRange) (hr : (Running.scan .lightOff).InRange s)
    (hc : s.ch + 1 = s.cfg.nch) (i : Instr) (v : Word) : (s.commit.answer i v).RangeInv := by
  obtain ⟨hf, hz, hs, -⟩ := h
  obtain ⟨⟨-, h8⟩, -⟩ := (sizesFit_iff _).mp hf
  have hlt : s.ch < s.cfg.nch := hr.1
  refine rangeInv_goto (u := s.commit) ⟨hf, hz, fun j => ?_, show s.cfg.nch ≤ 8 by bv_omega⟩ trivial
  rw [commit_sr, resultAt_committed]
  split
  · exact gathered_isDifference hf hr (by bv_omega)
  · exact hs j

/-! ## A position in a shared procedure is not the response -/

theorem rmw_ne_respond {cfg : Config} {r : Running} {m : RmwAt} (h : r.rmw cfg = some m) (j : Option Instr)
    (x : Response) : r ≠ .respond j x := by
  rintro rfl; cases h

theorem waiting_ne_respond {cfg : Config} {r : Running} {m : WaitAt} (h : r.waiting cfg = some m) (j : Option Instr)
    (x : Response) : r ≠ .respond j x := by
  rintro rfl; cases h

theorem gettingReading_ne_respond {r : Running} {m : ReadingAt} (h : r.gettingReading = some m) (j : Option Instr)
    (x : Response) : r ≠ .respond j x := by
  rintro rfl; cases h

theorem averaging_ne_respond {r : Running} {m : AverageAt} (h : r.averaging = some m) (j : Option Instr)
    (x : Response) : r ≠ .respond j x := by
  rintro rfl; cases h

/-! ## Every step -/

/-- What a command does at its acceptance keeps the ranges. -/
theorem startOf_rangeInv {s : State} (h : s.HeldInRange) (i : Instr) : (startOf i s).RangeInv := by
  obtain ⟨hf, hz, hs, -⟩ := id h
  cases i with
  | scan =>
    obtain ⟨⟨h1, -⟩, -⟩ := (sizesFit_iff _).mp hf
    refine rangeInv_goto (u := s.startScan) ⟨hf, hz, hs, show (0 : BitVec 4) ≤ 8 by decide⟩
      ⟨show (0 : BitVec 4) < s.cfg.nch by bv_omega, fun j hj => ?_, nofun⟩
    have hj' : j < 0 := hj
    bv_omega
  | calzero n =>
    by_cases hn : countFits s.cfg n = true
    · simpa [startOf, hn] using rangeInv_goto (r := .calzero n .stamp) h ⟨hn, nofun⟩
    · simpa [startOf, hn] using rangeInv_goto (r := .respond _ _) h trivial
  | getavg n =>
    by_cases hn : countFits s.cfg n = true
    · simpa [startOf, hn] using rangeInv_goto (r := .getavg n .stamp) h ⟨hn, nofun⟩
    · simpa [startOf, hn] using rangeInv_goto (r := .respond _ _) h trivial
  | rdsr idx =>
    cases hv : s.srv <;> rw [startOf, hv] <;> exact rangeInv_goto h trivial
  | begin => exact rangeInv_goto_of_same h rfl trivial
  | _ => exact rangeInv_goto h trivial

/-- Every step of a command keeps the ranges. -/
theorem execStep_rangeInv {i : Instr} {s t : State} (hi : ExecStep i s t) (h : s.RangeInv) : t.RangeInv := by
  obtain ⟨hh, hpos⟩ := (rangeInv_iff s).mp h
  obtain ⟨hf, -⟩ := id hh
  cases hi with
  | accepted => exact startOf_rangeInv (hh.congr (accept_ranged ..)) i
  | respond => exact rangeInv_of_idle hh rfl
  | other => exact h
  | rmwRead _ _ _ _ hv => exact rangeInv_goto_of_same hh (by simp) (rmw_back_inRange hv _ s)
  | rmwWrite _ _ _ _ hv => exact (rmw_rest_goesOn hv _).rangeInv hh (by simp)
  | rmwReadFault hb _ hr _ hv hi | rmwWriteFault hb _ hr _ hv hi =>
    exact rangeInv_raise hh (by simp) (hpos _ hb hr) (hi ▸ rmw_instr hv) (rmw_ne_respond hv) _
  | waitStamp _ _ _ _ hv | waitBusy _ _ _ _ hv | waitEnded _ _ _ _ hv | waitInTime _ _ _ _ hv
  | waitPause _ _ _ _ hv => exact rangeInv_goto_of_same hh (by simp) (waiting_back_inRange hv _ s)
  | waitSuccess _ _ _ _ hv => exact (waiting_rest_goesOn hv _).rangeInv hh (by simp)
  | waitStartFault hb _ hr _ hv hi | waitFailure hb _ hr _ hv hi | waitErrorFault hb _ hr _ hv hi
  | waitTimedOut hb _ hr _ hv hi =>
    exact rangeInv_raise hh (by simp) (hpos _ hb hr) (hi ▸ waiting_instr hv) (waiting_ne_respond hv) _
  | pollReading hb _ hr _ hv | pauseReading hb _ hr _ hv =>
    exact rangeInv_goto_of_same hh (by simp) (gettingReading_back_inRange hv (hpos _ hb hr) _)
  | sampleReading hb _ hr _ hv =>
    exact gettingReading_rest_rangeInv hv hh (hpos _ hb hr) (readSample_ranged s) (isSample_sampleAt hf 0)
  | pollReadingFault hb _ hr _ hv hi =>
    exact rangeInv_raise hh (by simp) (hpos _ hb hr) (hi ▸ gettingReading_instr hv) (gettingReading_ne_respond hv) _
  | sampleReadingFault hb _ hr _ hv hi =>
    exact rangeInv_raise hh (readSample_ranged s) (hpos _ hb hr) (hi ▸ gettingReading_instr hv)
      (gettingReading_ne_respond hv) _
  | averageStamp hb _ hr _ hv => exact averageStamp_rangeInv hv hh (hpos _ hb hr) (by simp) _
  | averagePoll hb _ hr _ hv _ hp | averageInTime hb _ hr _ hv _ hp | averagePause hb _ hr _ hv _ hp =>
    exact averaging_goto_rangeInv hv hh (hpos _ hb hr) (by simp [hp]) (by simp) _
  | averageMore hb _ hr _ hv _ hp _ hk =>
    exact averageMore_rangeInv hv hh (hpos _ hb hr) (by simp [hp]) (readSample_ranged s) (isSample_sampleAt hf 0) hk _
  | averageLast hb _ hr _ hv _ hp _ hk =>
    exact averageLast_rangeInv hv hh (hpos _ hb hr) (by simp [hp]) (readSample_ranged s) (isSample_sampleAt hf 0) hk
  | averageSampleFault hb _ hr _ hv hi =>
    exact rangeInv_raise hh (readSample_ranged s) (hpos _ hb hr) (hi ▸ averaging_instr hv) (averaging_ne_respond hv) _
  | averagePollFault hb _ hr _ hv hi | averageTimedOut hb _ hr _ hv hi =>
    exact rangeInv_raise hh (by simp) (hpos _ hb hr) (hi ▸ averaging_instr hv) (averaging_ne_respond hv) _
  | getbit | avail | calstatBusy | calstatEnded | calstatResult | beginHold | beginSettle | beginPowered
  | beginPollAgain | beginPause | beginChop => exact rangeInv_goto_of_same hh (by simp) trivial
  | getbitFault hb _ _ hr hi | availFault hb hr hi | calstatStartFault hb hr hi | calstatErrorFault hb hr hi
  | beginUnpowered hb _ _ _ hr hi | beginPollFault hb _ _ _ hr hi | beginChopFault hb _ _ _ hr hi =>
    exact rangeInv_raise hh (by simp) (hpos _ hb hr) (by rw [hi]; rfl) nofun _
  | scanOn hb hr | scanSettle hb hr =>
    obtain ⟨hc, hw, -⟩ := hpos _ hb hr
    exact rangeInv_goto_of_same (r := .scan _) hh (by simp) ⟨hc, hw, nofun⟩
  | scanAbort => exact rangeInv_goto_of_same hh (by simp) trivial
  | scanOff hb hr _ hc =>
    have hu : (ledSet (channelOf s.ch) false s).unlit.ranged = s.ranged := by simp
    exact scanOff_rangeInv (hh.congr hu) ((hpos _ hb hr).congr hu) (by simpa using hc)
  | scanLast hb hr _ hc =>
    have hu : (ledSet (channelOf s.ch) false s).unlit.ranged = s.ranged := by simp
    exact scanLast_rangeInv (hh.congr hu) ((hpos _ hb hr).congr hu) (by simpa using hc) i 0

theorem resetStep_rangeInv {s : State} (h : s.HeldInRange) (landed : Bool) : (resetStep landed s).RangeInv := by
  refine rangeInv_of_idle ⟨h.1, ?_, fun i => ?_, ?_⟩ rfl
  · show IsSample 0
    unfold IsSample; decide
  · show IsDifference (resultAt (Vector.replicate 8 0) i)
    rw [resultAt, Vector.getElem_replicate]
    unfold IsDifference; decide
  · show (0 : BitVec 4) ≤ 8
    decide

/-- Settles O54: the ranges hold after reset, after an acceptance, and after every outcome of an interaction. -/
theorem stepKeepsTheRanges : Obligations.StepKeepsTheRanges := by
  intro s t h hst
  obtain ⟨hh, hpos⟩ := (rangeInv_iff s).mp h
  rcases step_cases hst with ⟨landed, -, rfl⟩ | ⟨-, hb, cw, rest, i, -, -, he⟩ | ⟨-, -, cw, rest, -, -, rfl⟩
    | ⟨-, -, r, i, -, -, he⟩ | ⟨-, -, r, -, rfl⟩ | ⟨-, -, rfl⟩
  · exact resetStep_rangeInv hh landed
  · exact execStep_rangeInv (execStep_of_exec he) (rangeInv_of_idle (s := s.withPort rest) hh hb)
  · exact rangeInv_goto (u := (s.withPort rest).accept cw) (r := .respond none _) hh trivial
  · exact execStep_rangeInv (execStep_of_exec he) h
  · exact rangeInv_of_idle hh rfl
  · exact (rangeInv_iff _).mpr ⟨hh, fun r hb hr => (hpos r hb hr).congr rfl⟩

end Sys2Proof.Machine
end

section
/-! A word that decodes is the word of its command (R66, R69, R70): the reserved bits are zero, and the fields side by
side are the word again. -/

namespace Sys2Proof

/-- A reserved field of a legal word is zero (R69). -/
theorem field_eq_zero {cw reserved : Word} (h : cw &&& reserved = 0) (low len : Nat)
    (hm : reserved.extractLsb' low len = BitVec.allOnes len) : cw.extractLsb' low len = 0#len := by
  have hx := congrArg (BitVec.extractLsb' low len) h
  rw [BitVec.extractLsb'_and, hm, BitVec.and_allOnes] at hx
  simpa using hx

/-- Two neighbouring fields side by side are one field. -/
theorem extract_append {w high low m n : Nat} (x : BitVec w) (h : high = low + n) :
    x.extractLsb' high m ++ x.extractLsb' low n = x.extractLsb' low (m + n) := by
  apply BitVec.eq_of_toNat_eq
  simp only [toNat_side_by_side, BitVec.extractLsb'_toNat, h, Nat.shiftRight_eq_div_pow]
  rw [Nat.pow_add, Nat.pow_add, Nat.mul_comm (2 ^ m), Nat.mod_mul, Nat.mul_comm, Nat.add_comm, Nat.div_div_eq_div_mul]

/-! ## The fields of each format side by side (R66) -/

section
variable {cw : Word} {opc : Byte} (ho : opc = opcodeOf cw)
include ho

theorem word_of_format_z (h : cw &&& Format.z.reserved = 0) : opc ++ 0#24 = cw := by
  rw [ho, ← field_eq_zero h 0 24 (by decide), opcodeOf]
  simp only [extract_append]
  exact BitVec.extractLsb'_eq_self

theorem word_of_format_r (h : cw &&& Format.r.reserved = 0) : opc ++ 0#8 ++ byte1 cw ++ 0#5 ++ low3 cw = cw := by
  rw [ho, ← field_eq_zero h 16 8 (by decide), ← field_eq_zero h 3 5 (by decide), opcodeOf, byte1, low3]
  simp only [extract_append]
  exact BitVec.extractLsb'_eq_self

theorem word_of_format_c (h : cw &&& Format.c.reserved = 0) : opc ++ 0#16 ++ byte0 cw = cw := by
  rw [ho, ← field_eq_zero h 8 16 (by decide), opcodeOf, byte0]
  simp only [extract_append]
  exact BitVec.extractLsb'_eq_self

/-- Formats D and T. -/
theorem word_of_format_dt : opc ++ low24 cw = cw := by
  rw [ho, opcodeOf, low24]
  simp only [extract_append]
  exact BitVec.extractLsb'_eq_self

theorem word_of_format_b : opc ++ byte2 cw ++ byte1 cw ++ byte0 cw = cw := by
  rw [ho, opcodeOf, byte2, byte1, byte0]
  simp only [extract_append]
  exact BitVec.extractLsb'_eq_self

theorem word_of_format_n (h : cw &&& Format.n.reserved = 0) : opc ++ 0#8 ++ low16 cw = cw := by
  rw [ho, ← field_eq_zero h 16 8 (by decide), opcodeOf, low16]
  simp only [extract_append]
  exact BitVec.extractLsb'_eq_self

theorem word_of_format_f (h : cw &&& Format.f.reserved = 0) :
    opc ++ 0#23 ++ BitVec.ofBool (low1 cw) = cw := by
  have hl : BitVec.ofBool (low1 cw) = cw.extractLsb' 0 1 := by
    ext j hj
    obtain rfl : j = 0 := by omega
    simp [low1]
  rw [ho, ← field_eq_zero h 1 23 (by decide), hl, opcodeOf]
  simp only [extract_append]
  exact BitVec.extractLsb'_eq_self

theorem word_of_format_i (h : cw &&& Format.i.reserved = 0) : opc ++ 0#21 ++ low3 cw = cw := by
  rw [ho, ← field_eq_zero h 3 21 (by decide), opcodeOf, low3]
  simp only [extract_append]
  exact BitVec.extractLsb'_eq_self

end

/-- A word decodes to a command only through a row of its opcode, with the row's reserved bits zero (R70). -/
theorem row_of_decode {cw : Word} {i : Instr} (h : decode cw = some i) :
    ∃ row, row ∈ opcodeTable ∧ row.opc = opcodeOf cw ∧ cw &&& row.format.reserved = 0 ∧ row.build cw = i := by
  simp only [decode] at h
  split at h
  · cases h
  · rename_i row hrow
    split at h
    · cases h
      exact ⟨row, List.mem_of_find?_eq_some hrow, by simpa using List.find?_some hrow, ‹_›, rfl⟩
    · cases h

/-- A word that decodes is the word of its command. -/
theorem encode_of_decode {cw : Word} {i : Instr} (h : decode cw = some i) : encode i = cw := by
  obtain ⟨row, hmem, ho, hres, rfl⟩ := row_of_decode h
  simp only [opcodeTable, List.cons_append, List.nil_append, List.mem_cons, List.not_mem_nil, or_false] at hmem
  rcases hmem with rfl | rfl | rfl | rfl | rfl | rfl | rfl | rfl | rfl | rfl | rfl | rfl | rfl | rfl | rfl | rfl | rfl
    | rfl | rfl | rfl
  -- the rows in the table's order, by format: GETBIT to SETLDO, BEGIN to CALZERO, AVAIL to GETLED, SCAN to RDZOFF
  iterate 3 exact word_of_format_r ho hres
  · exact word_of_format_dt ho
  iterate 3 exact word_of_format_c ho hres
  · exact word_of_format_b ho
  iterate 2 exact word_of_format_dt ho
  · exact word_of_format_z ho hres
  · exact word_of_format_n ho hres
  iterate 2 exact word_of_format_z ho hres
  · exact word_of_format_n ho hres
  · exact word_of_format_f ho hres
  · exact word_of_format_z ho hres
  · exact word_of_format_i ho hres
  iterate 2 exact word_of_format_z ho hres

end Sys2Proof
end

section
/-! Every step of a command in execution is one interaction (R6), and no step changes the parameters (R8). -/

namespace Sys2Proof.Machine

/-- One interaction has taken place (R6): one event, to `DEVADDR` if it is a bus event (R41), and one move used; the
parameters are the same. -/
def OneInteraction (s : State) (after : Config × List Event × List Move × Nat) : Prop :=
  ∃ e, after = (s.cfg, e :: s.trace, s.script.tail, s.tick + 1) ∧ ∀ d, e.busDevice = some d → d = s.cfg.devAddr

theorem OneInteraction.cfg {s t : State} (h : OneInteraction s t.outside) : t.cfg = s.cfg := by
  obtain ⟨e, ht, -⟩ := h
  exact congrArg Prod.fst ht

/-! ## The interactions -/

theorem oneInteraction_heard (s : State) (a : Byte) : OneInteraction s (s.heard a).outside :=
  ⟨.rd s.cfg.devAddr a _, rfl, by simp [Event.busDevice]⟩

theorem oneInteraction_missed (s : State) (a : Byte) : OneInteraction s (s.missed a).outside :=
  ⟨.rd s.cfg.devAddr a none, rfl, by simp [Event.busDevice]⟩

theorem oneInteraction_readSample (s : State) : OneInteraction s (readSample s).2.outside :=
  ⟨.rdBlock s.cfg.devAddr _ _, rfl, by simp [Event.busDevice]⟩

theorem oneInteraction_memWrite (a v : Byte) (s : State) : OneInteraction s (memWrite a v s).2.outside :=
  ⟨.wr s.cfg.devAddr a v _, rfl, by simp [Event.busDevice]⟩

theorem oneInteraction_delay (k : Word) (s : State) : OneInteraction s (delay k s).outside := ⟨.delay k, rfl, nofun⟩

theorem oneInteraction_readNow (s : State) : OneInteraction s (readNow s).outside := ⟨.now _, rfl, nofun⟩

theorem oneInteraction_ledSet (i : BitVec 3) (on : Bool) (s : State) : OneInteraction s (ledSet i on s).outside :=
  ⟨.led i on, rfl, nofun⟩

theorem oneInteraction_deliver (s : State) (r : Response) : OneInteraction s (s.deliver r).outside := ⟨.resp r, rfl, nofun⟩

/-! ## What a command does around its interactions records nothing -/

@[simp] theorem goto_outside (s : State) (r : Running) : (s.goto r).outside = s.outside := rfl
@[simp] theorem answer_outside (s : State) (i : Instr) (v : Word) : (s.answer i v).outside = s.outside := rfl
@[simp] theorem stamp_outside (s : State) : s.stamp.outside = s.outside := rfl
@[simp] theorem clearSum_outside (s : State) : s.clearSum.outside = s.outside := rfl
@[simp] theorem addSample_outside (s : State) (v : Word) : (s.addSample v).outside = s.outside := rfl
@[simp] theorem countPoll_outside (s : State) : s.countPoll.outside = s.outside := rfl
@[simp] theorem setCalState_outside (c : BitVec 3) (s : State) : (setCalState c s).outside = s.outside := rfl
@[simp] theorem lit_outside (s : State) (i : BitVec 3) : (s.lit i).outside = s.outside := rfl
@[simp] theorem unlit_outside (s : State) : s.unlit.outside = s.outside := rfl
@[simp] theorem nextChannel_outside (s : State) : s.nextChannel.outside = s.outside := rfl
@[simp] theorem commit_outside (s : State) : s.commit.outside = s.outside := rfl

theorem gettingReading_rest_outside {r : Running} {m : ReadingAt} (h : r.gettingReading = some m) (v : Word)
    (u : State) : (m.rest v u).outside = u.outside := by
  cases r <;> try cases h
  case scan p => cases p <;> cases h; rfl
  all_goals rfl

theorem averaging_rest_outside {r : Running} {m : AverageAt} (h : r.averaging = some m) (v : Word) (u : State) :
    (m.rest v u).outside = u.outside := by
  cases r <;> cases h <;> rfl

/-- What a command does at its acceptance is no interaction (R22; log 1). -/
theorem startOf_outside (i : Instr) (s : State) :
    (startOf i s).outside = s.outside ∧ (startOf i s).dev = s.dev ∧ (startOf i s).now = s.now := by
  cases i with
  | calzero n => cases hn : countFits s.cfg n <;> simp [startOf, hn]
  | getavg n => cases hn : countFits s.cfg n <;> simp [startOf, hn]
  | rdsr idx => cases hv : s.srv <;> simp [startOf, hv]
  | _ => exact ⟨rfl, rfl, rfl⟩

/-- A step of a command is its acceptance, or exactly one interaction, unless another command is in execution. -/
theorem execStep_oneInteraction {i : Instr} {s t : State} (h : ExecStep i s t) :
    (s.busy = false ∧ t = startOf i (s.accept (encode i)))
      ∨ (t = s ∧ ∀ r, s.run = some r → r.instr ≠ some i)
      ∨ OneInteraction s t.outside := by
  rcases h with hb | _ | ⟨-, hn⟩
  · exact .inl ⟨hb, rfl⟩
  on_goal 2 => exact .inr (.inl ⟨rfl, hn⟩)
  all_goals refine .inr (.inr ?_)
  case respond => exact oneInteraction_deliver ..
  case rmwRead | waitBusy | waitEnded | waitFailure | pollReading | averagePoll | getbit | avail | calstatBusy
    | calstatEnded | calstatResult | beginPowered | beginUnpowered | beginPollAgain =>
    simpa using oneInteraction_heard s _
  case rmwReadFault | waitStartFault | waitErrorFault | pollReadingFault | averagePollFault | getbitFault | availFault
    | calstatStartFault | calstatErrorFault | beginPollFault => simpa using oneInteraction_missed s _
  case rmwWriteFault | beginChop | beginChopFault => simpa using oneInteraction_memWrite _ _ s
  case waitStamp | waitTimedOut | waitInTime | averageStamp | averageTimedOut | averageInTime =>
    simpa using oneInteraction_readNow s
  case waitPause | pauseReading | averagePause | beginHold | beginSettle | beginPause | scanSettle =>
    simpa using oneInteraction_delay _ s
  case scanOn | scanLast | scanOff | scanAbort => simpa using oneInteraction_ledSet _ _ s
  case sampleReadingFault | averageSampleFault | averageMore => simpa using oneInteraction_readSample s
  case rmwWrite hv _ _ _ _ => simpa [(rmw_rest_goesOn hv _).outside] using oneInteraction_memWrite _ _ s
  case waitSuccess hv _ _ _ _ => simpa [(waiting_rest_goesOn hv _).outside] using oneInteraction_heard s _
  case sampleReading hv _ _ _ => simpa [gettingReading_rest_outside hv] using oneInteraction_readSample s
  case averageLast hv _ _ _ _ => simpa [averaging_rest_outside hv] using oneInteraction_readSample s

end Sys2Proof.Machine
end

section
/-! The scope's statements: the parameters, one interaction a step, delays, and the commands that answer at once. -/

namespace Sys2Proof.Machine

/-! ## The parameters and the interactions of a step (R6, R8) -/

theorem execStep_cfg {i : Instr} {s t : State} (h : ExecStep i s t) : t.cfg = s.cfg := by
  rcases execStep_oneInteraction h with ⟨-, rfl⟩ | ⟨rfl, -⟩ | h
  · exact congrArg Prod.fst (startOf_outside i _).1
  · rfl
  · exact h.cfg

/-- Settles O60: reset, acceptance and interactions all leave the parameters. -/
theorem stepKeepsTheParameters : Obligations.StepKeepsTheParameters := by
  intro s t h
  rcases step_cases h with ⟨landed, -, rfl⟩ | ⟨-, -, cw, rest, i, -, -, he⟩ | ⟨-, -, cw, rest, -, -, rfl⟩
    | ⟨-, -, r, i, -, -, he⟩ | ⟨-, -, r, -, rfl⟩ | ⟨-, -, rfl⟩
  · rfl
  · exact execStep_cfg (s := s.withPort rest) (execStep_of_exec he)
  · rfl
  · exact execStep_cfg (execStep_of_exec he)
  · rfl
  · rfl

/-- A step of a command in execution is one interaction. -/
theorem step_busy_oneInteraction {s t : State} (hs : s.scriptedReset = none) (hb : s.busy = true) (hr : s.run ≠ none)
    (h : step s = .next t) : OneInteraction s t.outside := by
  rcases step_cases h with ⟨_, hl, -⟩ | ⟨-, hb', -⟩ | ⟨-, hb', -⟩ | ⟨-, -, r, i, hrun, hi, he⟩ | ⟨-, -, r, -, rfl⟩
    | ⟨-, ⟨hb', -⟩ | ⟨-, hr'⟩, -⟩
  · simp [hs] at hl
  · simp [hb] at hb'
  · simp [hb] at hb'
  · rcases execStep_oneInteraction (execStep_of_exec he) with ⟨hb', -⟩ | ⟨-, hn⟩ | h
    · simp [hb] at hb'
    · exact absurd hi (hn r hrun)
    · exact h
  · exact oneInteraction_deliver s r
  · simp [hb] at hb'
  · exact absurd hr' hr

/-- A step that accepts a word records it and does nothing else outside the block (R22; log 1). -/
theorem step_accept_outside {s t : State} {cw : Word} {rest : List Word} (hs : s.scriptedReset = none)
    (hb : s.busy = false) (hp : s.port = cw :: rest) (h : step s = .next t) :
    t.outside = (s.cfg, .accept cw :: s.trace, s.script, s.tick) ∧ t.dev = s.dev ∧ t.now = s.now := by
  rcases step_cases h with ⟨_, hl, -⟩ | ⟨-, -, cw', rest', i, hp', hd, he⟩ | ⟨-, -, cw', rest', hp', -, rfl⟩
    | ⟨-, hb', -⟩ | ⟨-, hb', -⟩ | ⟨-, ⟨-, hp'⟩ | ⟨hb', -⟩, -⟩
  · simp [hs] at hl
  · cases hp.symm.trans hp'
    rw [exec_accepted i _ (by exact hb), encode_of_decode hd] at he
    cases he
    exact startOf_outside i _
  · cases hp.symm.trans hp'
    exact ⟨rfl, rfl, rfl⟩
  · simp [hb] at hb'
  · simp [hb] at hb'
  · simp [hp] at hp'
  · simp [hb] at hb'

/-- Settles O45, from what a step does to the ports while a command is in execution and at an acceptance. -/
theorem eachStepIsOneInteraction : Obligations.EachStepIsOneInteraction := by
  intro s t hs h
  refine ⟨fun hb hr => ?_, fun hb cw rest hp => ?_⟩
  · obtain ⟨e, ht, he⟩ := step_busy_oneInteraction hs hb hr h
    simp only [State.outside, Prod.mk.injEq] at ht
    obtain ⟨-, htrace, hscript, htick⟩ := ht
    exact ⟨e, htrace, htick, hscript, he⟩
  · obtain ⟨ht, hdev, hnow⟩ := step_accept_outside hs hb hp h
    simp only [State.outside, Prod.mk.injEq] at ht
    obtain ⟨-, htrace, -, htick⟩ := ht
    exact ⟨htrace, htick, hdev, hnow⟩

/-! ## Delays (R12) -/

theorem least_le_timePassed (profile : TimeProfile) (least elapse : Word) :
    least.toNat ≤ (timePassed profile least elapse).toNat := by
  cases profile with
  | exact => exact le_rfl
  | lowerBound =>
    simp only [timePassed]
    split <;> bv_omega

theorem timePassed_lowerBound {least elapse : Word} (h : least.toNat ≤ elapse.toNat) :
    timePassed .lowerBound least elapse = elapse :=
  if_neg (by bv_omega)

theorem moveAt_zero_of_script {s : State} {m : Move} {ms : List Move} (h : s.script = m :: ms) : s.moveAt 0 = m := by
  simp [State.moveAt, h]

/-- Settles O47, from how far time passes in either profile. -/
theorem delayIsALowerBound : Obligations.DelayIsALowerBound := by
  intro s k
  refine ⟨fun _ => ?_, fun hp => ?_, fun d m ms hp hk hs hm => ?_⟩
  · rw [delay_now, environ_now, add_sub_cancel_left]
    exact least_le_timePassed ..
  · rw [delay_now, environ_now, hp]
    rfl
  · rw [delay_now, environ_now, hp, moveAt_zero_of_script hs, hm, timePassed_lowerBound hk]

/-! ## Commands with no interaction but the response -/

/-- A command that at its acceptance has only its response left. -/
theorem answerCourse_of_accepted {i : Instr} {r : Response} {s : State}
    (h : exec i s = .next ((s.accept (encode i)).goto (.respond (some i) r))) : AnswerCourse i r s :=
  ⟨_, _, h, exec_respond i _ r rfl rfl, rfl, rfl, rfl, rfl, ⟨⟨rfl, rfl⟩, rfl, ⟨rfl, rfl⟩, ⟨rfl, rfl, rfl, rfl⟩,
    ⟨rfl, rfl, rfl, rfl⟩, rfl, rfl, rfl⟩, rfl, rfl⟩

/-- Settles O19: the operand's three bytes are the operand, and nothing but the response follows. -/
theorem decodeAnswersTheSignExtendedOperand : Obligations.DecodeAnswersTheSignExtendedOperand := by
  intro s raw hb
  have hc : AnswerCourse (.decode raw) ⟨0x00, wordOf s.cfg (sampleValue s.cfg raw)⟩ s := by
    apply answerCourse_of_accepted
    rw [decode_accepted s raw hb, decodeSample, append_bytes_of_raw]
    rfl
  exact ⟨rfl, hc, fun h24 hx => wordOf_sampleValue h24 hx raw ▸ hc⟩

/-- Settles O36, from the test of the count at acceptance. -/
theorem zeroCountIsRefusedBeforeAnyInteraction : Obligations.ZeroCountIsRefusedBeforeAnyInteraction := by
  intro s n hb
  refine ⟨fun hn => ?_, fun h0 hn => ?_, fun h => ?_⟩
  · have hf : ¬ countFits s.cfg n = true := by
      rw [countFits_iff]
      rintro ⟨h0, hle⟩
      rcases hn with rfl | hlt
      · exact h0 rfl
      · bv_omega
    constructor <;> apply answerCourse_of_accepted
    · rw [getavg_accepted s n hb, if_neg hf]
      rfl
    · rw [calzero_accepted s n hb, if_neg hf]
      rfl
  · have hf : countFits s.cfg n = true := (countFits_iff _ _).mpr ⟨h0, hn⟩
    constructor
    · exact ⟨_, by rw [getavg_accepted s n hb, if_pos hf], rfl⟩
    · exact ⟨_, by rw [calzero_accepted s n hb, if_pos hf], rfl⟩
  · rw [h]
    bv_omega

end Sys2Proof.Machine
end

section
/-! What a step of the command in execution does at the ports, said once: it is one interaction, a bus write exactly at
a position that stores, a `LedSet` exactly at a position that switches, and the command stays in execution until its
response. -/

namespace Sys2Proof.Machine

/-- The channel the coming interaction of a position switches and whether on, if it is a `LedSet` (R150, R152). -/
def Running.switches (s : State) : Running → Option (BitVec 3 × Bool)
  | .scan .lightOn => some (channelOf s.ch, true)
  | .scan .lightOff => some (channelOf s.ch, false)
  | .scan (.abort _) => some (s.ledonIdx, false)
  | _ => none

/-- One interaction of a command (R6) and what it is: a bus write, a `LedSet`, or one that only reads, waits or looks
at the time. -/
inductive Interacted (s : State) : State → Prop where
  | store (a v : Byte) (hst : s.stores = some (a, v)) (hsw : s.switches = none) : Interacted s (memWrite a v s).2
  | switch (c : BitVec 3) (on : Bool) (hst : s.stores = none) (hsw : s.switches = some (c, on)) :
      Interacted s (ledSet c on s)
  | watch (least : Word) (e : Event) (he : orderAfter e true = some true) (hst : s.stores = none)
      (hsw : s.switches = none) : Interacted s ((s.environ least).log e)

/-- `BUSY`, the words at the port, the events so far, the device and the LED channels. -/
def State.atPorts (s : State) :=
  (s.busy, s.port, s.trace, s.dev, s.led)

theorem atPorts_eq_iff (s t : State) :
    t.atPorts = s.atPorts ↔ t.busy = s.busy ∧ t.port = s.port ∧ t.trace = s.trace ∧ t.dev = s.dev ∧ t.led = s.led := by
  simp [State.atPorts]

theorem raise_atPorts (s : State) (i : Instr) (c : Cause) : (s.raise i c).atPorts = s.atPorts := by
  simp [atPorts_eq_iff]

/-- Command `i` is in execution. -/
def State.Runs (s : State) (i : Instr) : Prop := ∃ r, s.run = some r ∧ r.instr = some i

/-- A step of command `i` that is one interaction and leaves it in execution. -/
def ActsIn (i : Instr) (s t : State) : Prop := (∃ u, Interacted s u ∧ t.atPorts = u.atPorts) ∧ t.Runs i

/-! ## What a position stores and switches -/

section
variable {s : State} {r : Running} (hb : s.busy = true) (hr : s.run = some r)
include hb hr

theorem stores_eq : s.stores = r.stores s.cfg := by simp [State.stores, hb, hr]

theorem switches_eq : s.switches = r.switches s := by
  simp only [State.switches, hb, hr, if_true]
  cases r with
  | scan p => cases p <;> rfl
  | _ => rfl

theorem interacted_watch (least : Word) {e : Event} (he : orderAfter e true = some true) (hst : r.stores s.cfg = none)
    (hsw : r.switches s = none) : Interacted s ((s.environ least).log e) :=
  .watch least e he ((stores_eq hb hr).trans hst) ((switches_eq hb hr).trans hsw)

theorem interacted_store {a v : Byte} (hst : r.stores s.cfg = some (a, v)) (hsw : r.switches s = none) :
    Interacted s (memWrite a v s).2 :=
  .store a v ((stores_eq hb hr).trans hst) ((switches_eq hb hr).trans hsw)

theorem interacted_switch {c : BitVec 3} {on : Bool} (hst : r.stores s.cfg = none)
    (hsw : r.switches s = some (c, on)) : Interacted s (ledSet c on s) :=
  .switch c on ((stores_eq hb hr).trans hst) ((switches_eq hb hr).trans hsw)

end

/-! ## Positions in the shared procedures -/

/-- What every use of a shared procedure by command `i` at position `r` has in common: what the position stores, that it
switches no channel, and that the command goes on inside the procedure and after it, with no further interaction. -/
structure SharedUse {π : Type} (cfg : Config) (r : Running) (i : Instr) (stores : Option (Byte × Byte))
    (back : π → Running) (rest : State → State) : Prop where
  stores : r.stores cfg = stores
  switches : ∀ s, r.switches s = none
  back : ∀ p, (back p).instr = some i
  rest_atPorts : ∀ u, (rest u).atPorts = u.atPorts
  rest_runs : ∀ u, (rest u).Runs i

/-- The byte a read-modify-write stores at its position (R91, R92). -/
def RmwAt.stores (m : RmwAt) : Option (Byte × Byte) :=
  match m.pos with
  | .read => none
  | .write v => some (m.reg, v)

theorem rmw_stores {cfg : Config} {r : Running} {m : RmwAt} (h : r.rmw cfg = some m) : r.stores cfg = m.stores := by
  cases r <;> try cases h
  case begin p =>
    cases p <;> try cases h
    case afe q => cases q <;> cases h <;> rename_i p <;> cases p <;> rfl
    all_goals rename_i p; cases p <;> rfl
  case calafe q => cases q <;> cases h <;> rename_i p <;> cases p <;> rfl
  all_goals rename_i p; cases p <;> rfl

theorem rmw_sharedUse {cfg : Config} {r : Running} {m : RmwAt} {i : Instr} (h : r.rmw cfg = some m)
    (hi : m.instr = i) : SharedUse cfg r i m.stores m.back m.rest := by
  have hst := rmw_stores h
  subst hi
  cases r <;> try cases h
  all_goals try exact ⟨hst, fun _ => rfl, fun _ => rfl, fun _ => rfl, fun _ => ⟨_, rfl, rfl⟩⟩
  case begin p =>
    cases p <;> try cases h
    all_goals try exact ⟨hst, fun _ => rfl, fun _ => rfl, fun _ => rfl, fun _ => ⟨_, rfl, rfl⟩⟩
    rename_i q; cases q <;> cases h <;> exact ⟨hst, fun _ => rfl, fun _ => rfl, fun _ => rfl, fun _ => ⟨_, rfl, rfl⟩⟩
  case calafe q => cases q <;> cases h <;> exact ⟨hst, fun _ => rfl, fun _ => rfl, fun _ => rfl, fun _ => ⟨_, rfl, rfl⟩⟩

theorem waiting_sharedUse {cfg : Config} {r : Running} {m : WaitAt} {i : Instr} (h : r.waiting cfg = some m)
    (hi : m.instr = i) : SharedUse cfg r i none m.back m.rest := by
  subst hi
  cases r <;> try cases h
  case begin p =>
    cases p <;> try cases h
    rename_i q; cases q <;> cases h; exact ⟨rfl, fun _ => rfl, fun _ => rfl, fun _ => rfl, fun _ => ⟨_, rfl, rfl⟩⟩
  case calafe q => cases q <;> cases h; exact ⟨rfl, fun _ => rfl, fun _ => rfl, fun _ => rfl, fun _ => ⟨_, rfl, rfl⟩⟩
  case waitcal => exact ⟨rfl, fun _ => rfl, fun _ => rfl, fun _ => rfl, fun _ => ⟨_, rfl, rfl⟩⟩

theorem gettingReading_sharedUse {r : Running} {m : ReadingAt} {i : Instr} (h : r.gettingReading = some m)
    (hi : m.instr = i) (cfg : Config) (v : Word) : SharedUse cfg r i none m.back (m.rest v) := by
  subst hi
  cases r <;> try cases h
  case scan p => cases p <;> cases h; exact ⟨rfl, fun _ => rfl, fun _ => rfl, fun _ => rfl, fun _ => ⟨_, rfl, rfl⟩⟩
  all_goals exact ⟨rfl, fun _ => rfl, fun _ => rfl, fun _ => rfl, fun _ => ⟨_, rfl, rfl⟩⟩

theorem averaging_sharedUse {r : Running} {m : AverageAt} {i : Instr} (h : r.averaging = some m) (hi : m.instr = i)
    (cfg : Config) (v : Word) : SharedUse cfg r i none m.back (m.rest v) := by
  subst hi
  cases r <;> cases h <;> exact ⟨rfl, fun _ => rfl, fun _ => rfl, fun _ => rfl, fun _ => ⟨_, rfl, rfl⟩⟩

/-! ## Every step of a command in execution -/

/-- A failure leaves the command in execution, with its failure action or its response to come (R176). -/
theorem raise_runs (s : State) (i : Instr) (c : Cause) : (s.raise i c).Runs i := by
  rcases raise_run s i c with h | ⟨rfl, -, h⟩ <;> exact ⟨_, h, rfl⟩

theorem actsIn_goto {i : Instr} {s u v : State} {r : Running} (h : Interacted s u) (hr : r.instr = some i)
    (hp : v.atPorts = u.atPorts := by rfl) : ActsIn i s (v.goto r) := ⟨⟨u, h, hp⟩, r, rfl, hr⟩

theorem actsIn_raise {i : Instr} {s u v : State} {c : Cause} (h : Interacted s u)
    (hp : v.atPorts = u.atPorts := by rfl) : ActsIn i s (v.raise i c) :=
  ⟨⟨u, h, (raise_atPorts ..).trans hp⟩, raise_runs ..⟩

section
variable {π : Type} {s u v : State} {r : Running} {i : Instr} {x : Option (Byte × Byte)} {back : π → Running}
  {rest : State → State}

theorem SharedUse.actsIn_goto (h : SharedUse s.cfg r i x back rest) (hu : Interacted s u) (p : π)
    (hp : v.atPorts = u.atPorts := by rfl) : ActsIn i s (v.goto (back p)) :=
  Machine.actsIn_goto hu (h.back p) hp

theorem SharedUse.actsIn_rest (h : SharedUse s.cfg r i x back rest) (hu : Interacted s u)
    (hp : v.atPorts = u.atPorts := by rfl) : ActsIn i s (rest v) :=
  ⟨⟨u, hu, (h.rest_atPorts v).trans hp⟩, h.rest_runs v⟩

variable (hb : s.busy = true) (hr : s.run = some r)
include hb hr

/-- The interaction of a shared procedure where it is no bus write. -/
theorem SharedUse.watch (h : SharedUse s.cfg r i none back rest) (least : Word) {e : Event}
    (he : orderAfter e true = some true) : Interacted s ((s.environ least).log e) :=
  interacted_watch hb hr least he h.stores (h.switches s)

end

theorem rmw_interacted_read {s : State} {r : Running} {m : RmwAt} (hb : s.busy = true) (hr : s.run = some r)
    (h : r.rmw s.cfg = some m) (hp : m.pos = .read) {e : Event} (he : orderAfter e true = some true) :
    Interacted s ((s.environ 0).log e) :=
  interacted_watch hb hr 0 he ((rmw_stores h).trans (by rw [RmwAt.stores, hp])) ((rmw_sharedUse h rfl).switches s)

theorem rmw_interacted_write {s : State} {r : Running} {m : RmwAt} (hb : s.busy = true) (hr : s.run = some r)
    (h : r.rmw s.cfg = some m) {v : Byte} (hp : m.pos = .write v) : Interacted s (memWrite m.reg v s).2 :=
  interacted_store hb hr ((rmw_stores h).trans (by rw [RmwAt.stores, hp])) ((rmw_sharedUse h rfl).switches s)

/-- Every step of a command before its response is one interaction that leaves it in execution. -/
theorem execStep_actsIn {i : Instr} {s t : State} (h : ExecStep i s t) (hb : s.busy = true) (hi : s.Runs i)
    (hn : ∀ x, s.run ≠ some (.respond (some i) x)) : ActsIn i s t := by
  obtain ⟨r, hrun, hinstr⟩ := hi
  cases h with
  | accepted hb' => simp [hb] at hb'
  | respond _ x hr => exact absurd hr (hn x)
  | other _ ho => exact absurd hinstr (ho r hrun)
  | rmwRead _ _ hr _ hv hi hp => exact (rmw_sharedUse hv hi).actsIn_goto (rmw_interacted_read hb hr hv hp rfl) _
  | rmwReadFault _ _ hr _ hv _ hp => exact actsIn_raise (rmw_interacted_read hb hr hv hp rfl)
  | rmwWrite _ _ hr _ hv hi _ hp => exact (rmw_sharedUse hv hi).actsIn_rest (rmw_interacted_write hb hr hv hp)
  | rmwWriteFault _ _ hr _ hv _ _ hp => exact actsIn_raise (rmw_interacted_write hb hr hv hp)
  | waitStamp _ _ hr _ hv hi | waitBusy _ _ hr _ hv hi | waitEnded _ _ hr _ hv hi | waitInTime _ _ hr _ hv hi
  | waitPause _ _ hr _ hv hi =>
    have hu := waiting_sharedUse hv hi
    exact hu.actsIn_goto (hu.watch hb hr _ rfl) _
  | waitStartFault _ _ hr _ hv hi | waitFailure _ _ hr _ hv hi | waitErrorFault _ _ hr _ hv hi
  | waitTimedOut _ _ hr _ hv hi => exact actsIn_raise ((waiting_sharedUse hv hi).watch hb hr _ rfl)
  | waitSuccess _ _ hr _ hv hi =>
    have hu := waiting_sharedUse hv hi
    exact hu.actsIn_rest (hu.watch hb hr _ rfl)
  | pollReading _ _ hr _ hv hi | pauseReading _ _ hr _ hv hi =>
    have hu := gettingReading_sharedUse hv hi s.cfg 0
    exact hu.actsIn_goto (hu.watch hb hr _ rfl) _
  | pollReadingFault _ _ hr _ hv hi | sampleReadingFault _ _ hr _ hv hi =>
    exact actsIn_raise ((gettingReading_sharedUse hv hi s.cfg 0).watch hb hr _ rfl)
  | sampleReading _ _ hr _ hv hi =>
    have hu := gettingReading_sharedUse hv hi s.cfg (s.sampleAt 0)
    exact hu.actsIn_rest (hu.watch hb hr _ rfl)
  | averageStamp _ _ hr _ hv hi | averagePoll _ _ hr _ hv hi | averageInTime _ _ hr _ hv hi
  | averagePause _ _ hr _ hv hi | averageMore _ _ hr _ hv hi =>
    have hu := averaging_sharedUse hv hi s.cfg 0
    exact hu.actsIn_goto (hu.watch hb hr _ rfl) _
  | averagePollFault _ _ hr _ hv hi | averageSampleFault _ _ hr _ hv hi | averageTimedOut _ _ hr _ hv hi =>
    exact actsIn_raise ((averaging_sharedUse hv hi s.cfg 0).watch hb hr _ rfl)
  | averageLast _ _ hr _ hv hi =>
    exact (averaging_sharedUse hv hi s.cfg _).actsIn_rest ((averaging_sharedUse hv hi s.cfg 0).watch hb hr _ rfl)
  | getbit _ _ _ hr hi | avail _ hr hi | calstatBusy _ hr hi | calstatEnded _ hr hi | calstatResult _ hr hi
  | beginHold _ _ _ _ hr hi | beginSettle _ _ _ _ hr hi | beginPowered _ _ _ _ hr hi | beginPollAgain _ _ _ _ hr hi
  | beginPause _ _ _ _ hr hi | scanSettle _ hr hi =>
    subst hi
    exact actsIn_goto (interacted_watch hb hr _ rfl rfl rfl) rfl
  | getbitFault _ _ _ hr | availFault _ hr | calstatStartFault _ hr | calstatErrorFault _ hr
  | beginUnpowered _ _ _ _ hr | beginPollFault _ _ _ _ hr => exact actsIn_raise (interacted_watch hb hr _ rfl rfl rfl)
  | beginChop _ _ _ _ hr hi => exact actsIn_goto (interacted_store hb hr rfl rfl) (by rw [hi]; rfl)
  | beginChopFault _ _ _ _ hr => exact actsIn_raise (interacted_store hb hr rfl rfl)
  | scanOn _ hr hi | scanOff _ hr hi | scanLast _ hr hi | scanAbort _ _ hr hi =>
    subst hi
    exact actsIn_goto (interacted_switch hb hr rfl rfl) rfl

end Sys2Proof.Machine
end

section
/-! The ports over a step: acceptance, interaction, response, reset. The order of events, `BUSY`, the port while busy,
what reaches the device and the LEDs, and reset (R22, R24, R34, R43, R69, R72, R150, R185). -/

namespace Sys2Proof.Machine

/-! ## What a step is at the ports -/

theorem Interacted.trace {s u : State} (h : Interacted s u) :
    ∃ e, u.trace = e :: s.trace ∧ orderAfter e true = some true := by
  cases h with
  | store a v => exact ⟨_, rfl, rfl⟩
  | switch c on => exact ⟨_, rfl, rfl⟩
  | watch least e he => exact ⟨e, rfl, he⟩

theorem Interacted.busy_port {s u : State} (h : Interacted s u) : u.busy = s.busy ∧ u.port = s.port := by
  cases h <;> exact ⟨rfl, rfl⟩

theorem startOf_atPorts (i : Instr) (s : State) : (startOf i s).atPorts = s.atPorts := by
  cases i with
  | calzero n => cases hn : countFits s.cfg n <;> simp [startOf, hn, atPorts_eq_iff]
  | getavg n => cases hn : countFits s.cfg n <;> simp [startOf, hn, atPorts_eq_iff]
  | rdsr idx => cases hv : s.srv <;> simp [startOf, hv, atPorts_eq_iff]
  | _ => rfl

theorem startOf_runs (i : Instr) (s : State) : (startOf i s).Runs i := by
  cases i with
  | calzero n => cases hn : countFits s.cfg n <;> simp [startOf, hn, State.Runs, Running.instr]
  | getavg n => cases hn : countFits s.cfg n <;> simp [startOf, hn, State.Runs, Running.instr]
  | rdsr idx => cases hv : s.srv <;> simp [startOf, hv, State.Runs, Running.instr]
  | _ => exact ⟨_, rfl, rfl⟩

/-- A step of a busy block: an interaction of its command, a response, or nothing to do. -/
theorem step_busy_cases {s t : State} (h : step s = .next t) (hs : s.scriptedReset = none) (hb : s.busy = true) :
    (∃ i, ActsIn i s t) ∨ (∃ j x, s.run = some (.respond j x) ∧ t = s.deliver x) ∨ s.run = none ∧ t = s.idle := by
  rcases step_cases h with ⟨_, hl, -⟩ | ⟨-, hb', -⟩ | ⟨-, hb', -⟩ | ⟨-, -, r, i, hr, hi, he⟩ | ⟨-, -, x, hr, rfl⟩
    | ⟨-, ⟨hb', -⟩ | ⟨-, hr⟩, rfl⟩
  · simp [hs] at hl
  · simp [hb] at hb'
  · simp [hb] at hb'
  · by_cases hx : ∃ x, s.run = some (.respond (some i) x)
    · obtain ⟨x, hx⟩ := hx
      rw [exec_respond i s x hb hx] at he
      cases he
      exact .inr (.inl ⟨_, x, hx, rfl⟩)
    · exact .inl ⟨i, execStep_actsIn (execStep_of_exec he) hb ⟨r, hr, hi⟩ fun x hx' => hx ⟨x, hx'⟩⟩
  · exact .inr (.inl ⟨none, x, hr, rfl⟩)
  · simp [hb] at hb'
  · exact .inr (.inr ⟨hr, rfl⟩)

/-- A step of a block that is not busy: a word is accepted, or there is none (R22, R69). -/
theorem step_waiting_cases {s t : State} (h : step s = .next t) (hs : s.scriptedReset = none) (hb : s.busy = false) :
    (∃ cw rest, s.port = cw :: rest ∧ t.atPorts = ((s.withPort rest).accept cw).atPorts ∧ t.run.isSome = true)
      ∨ s.port = [] ∧ t = s.idle := by
  rcases step_cases h with ⟨_, hl, -⟩ | ⟨-, -, cw, rest, i, hp, hd, he⟩ | ⟨-, -, cw, rest, hp, -, rfl⟩ | ⟨-, hb', -⟩
    | ⟨-, hb', -⟩ | ⟨-, ⟨-, hp⟩ | ⟨hb', -⟩, rfl⟩
  · simp [hs] at hl
  · rw [exec_accepted i _ (by exact hb), encode_of_decode hd] at he
    cases he
    obtain ⟨r, hr, -⟩ := startOf_runs i ((s.withPort rest).accept cw)
    exact .inl ⟨cw, rest, hp, startOf_atPorts .., by rw [hr]; rfl⟩
  · exact .inl ⟨cw, rest, hp, rfl, rfl⟩
  · simp [hb] at hb'
  · simp [hb] at hb'
  · exact .inr ⟨hp, rfl⟩
  · simp [hb] at hb'

theorem step_reset {s t : State} {landed : Bool} (h : step s = .next t) (hs : s.scriptedReset = some landed) :
    t = resetStep landed s := by
  simp only [step, stepOnce, hs] at h
  cases h
  rfl

theorem ActsIn.busy {i : Instr} {s t : State} (h : ActsIn i s t) : t.busy = s.busy := by
  obtain ⟨⟨u, hu, ht⟩, -⟩ := h
  exact ((atPorts_eq_iff u t).mp ht).1.trans hu.busy_port.1

theorem ActsIn.port {i : Instr} {s t : State} (h : ActsIn i s t) : t.port = s.port := by
  obtain ⟨⟨u, hu, ht⟩, -⟩ := h
  exact ((atPorts_eq_iff u t).mp ht).2.1.trans hu.busy_port.2

theorem ActsIn.trace {i : Instr} {s t : State} (h : ActsIn i s t) :
    ∃ e, t.trace = e :: s.trace ∧ orderAfter e true = some true := by
  obtain ⟨⟨u, hu, ht⟩, -⟩ := h
  obtain ⟨e, hue, he⟩ := hu.trace
  exact ⟨e, ((atPorts_eq_iff u t).mp ht).2.2.1.trans hue, he⟩

theorem ActsIn.run_isSome {i : Instr} {s t : State} (h : ActsIn i s t) : t.run.isSome = true := by
  obtain ⟨-, r, hr, -⟩ := h
  rw [hr]
  rfl

/-! ## The order of events (R22, R72) -/

theorem portOrder_cons (e : Event) {es : List Event} {b : Bool} (h : portOrder es = some b) :
    portOrder (e :: es) = orderAfter e b := by
  rw [portOrder, h]
  rfl

theorem orderInv_of_trace {s t : State} {e : Event} (h : s.OrderInv) (ht : t.trace = e :: s.trace)
    (he : orderAfter e s.busy = some t.busy) : t.OrderInv := by
  rw [State.OrderInv, ht, portOrder_cons e h, he]

/-- Settles O57: reset, acceptance, interaction and response each add the event that may come then, and leave `BUSY`
accordingly. -/
theorem stepKeepsThePortOrder : Obligations.StepKeepsThePortOrder := by
  intro s t h hst
  cases hs : s.scriptedReset with
  | some landed => exact step_reset hst hs ▸ orderInv_of_trace (e := .reset) h rfl rfl
  | none =>
    cases hb : s.busy with
    | true =>
      rcases step_busy_cases hst hs hb with ⟨i, ha⟩ | ⟨j, x, -, rfl⟩ | ⟨-, rfl⟩
      · obtain ⟨e, ht, he⟩ := ha.trace
        exact orderInv_of_trace h ht (by rw [ha.busy, hb, he])
      · exact orderInv_of_trace (e := .resp x) h rfl (by rw [hb]; rfl)
      · exact h
    | false =>
      rcases step_waiting_cases hst hs hb with ⟨cw, rest, -, ht, -⟩ | ⟨-, rfl⟩
      · obtain ⟨hbusy, -, htrace, -⟩ := (atPorts_eq_iff _ _).mp ht
        exact orderInv_of_trace (e := .accept cw) h htrace (by rw [hb, hbusy]; rfl)
      · exact h

/-- Settles O52: reset, acceptance, interaction and response set `BUSY` and the position together. -/
theorem stepKeepsBusyTrue : Obligations.StepKeepsBusyTrue := by
  intro s t h hst
  cases hs : s.scriptedReset with
  | some landed => exact step_reset hst hs ▸ rfl
  | none =>
    cases hb : s.busy with
    | true =>
      rcases step_busy_cases hst hs hb with ⟨i, ha⟩ | ⟨j, x, -, rfl⟩ | ⟨-, rfl⟩
      · exact (ha.busy.trans hb).trans ha.run_isSome.symm
      · rfl
      · exact h
    | false =>
      rcases step_waiting_cases hst hs hb with ⟨cw, rest, -, ht, hr⟩ | ⟨-, rfl⟩
      · exact ((atPorts_eq_iff _ _).mp ht).1.trans hr.symm
      · exact h

/-! ## A busy block and the port (R22) -/

/-- A step that adds one event, which is no acceptance, or none, records no acceptance. -/
theorem trace_ne_accept {es es' : List Event} {cw : Word} (h : es' = es ∨ ∃ e, es' = e :: es ∧ e ≠ .accept cw)
    (more : List Event) : es' ≠ .accept cw :: more ++ es := by
  intro hc
  rcases h with rfl | ⟨e, rfl, he⟩
  · have := congrArg List.length hc
    simp only [List.length_append, List.length_cons] at this
    omega
  · exact he (List.cons.inj hc).1

/-- Settles O8: while busy a step is an interaction, a response or nothing, none of which is an acceptance; another
command's `exec` has no effect. -/
theorem busyBlockAcceptsNoWord : Obligations.BusyBlockAcceptsNoWord := by
  intro s t hb hst
  refine ⟨?_, fun cw es hs => trace_ne_accept ?_ es, fun i hi => exec_other i s hb hi⟩
  · cases hs : s.scriptedReset with
    | some landed => exact step_reset hst hs ▸ rfl
    | none =>
      rcases step_busy_cases hst hs hb with ⟨i, ha⟩ | ⟨j, x, -, rfl⟩ | ⟨-, rfl⟩
      · exact ha.port
      · rfl
      · rfl
  · rcases step_busy_cases hst hs hb with ⟨i, ha⟩ | ⟨j, x, -, rfl⟩ | ⟨-, rfl⟩
    · obtain ⟨e, ht, he⟩ := ha.trace
      exact .inr ⟨e, ht, by rintro rfl; cases he⟩
    · exact .inr ⟨.resp x, rfl, nofun⟩
    · exact .inl rfl

/-- Settles O6: by the definition of a step, the block not busy or busy. -/
theorem stepRunsTheDecodedCommand : Obligations.StepRunsTheDecodedCommand := by
  intro s i hs
  refine ⟨fun cw rest hb hp hd => ?_, fun r hb hr hi => ?_⟩
  · simp only [step, stepOnce, hs, stepBlock, hb, acceptNext, hp, hd]
    rfl
  · simp only [step, stepOnce, hs, stepBlock, hb, continueRun, hr, if_true]
    cases r with
    | respond j x => cases hi; rfl
    | _ => cases hi; rfl

/-! ## What reaches the device and the LED channels (R31, R43, R150) -/

theorem Interacted.eq_of_stores {s u : State} {a v : Byte} (h : Interacted s u) (hst : s.stores = some (a, v)) :
    u = (memWrite a v s).2 := by
  cases h with
  | store a' v' hst' => cases hst.symm.trans hst'; rfl
  | switch _ _ hst' => cases hst.symm.trans hst'
  | watch _ _ _ hst' => cases hst.symm.trans hst'

theorem Interacted.eq_of_switches {s u : State} {c : BitVec 3} {on : Bool} (h : Interacted s u)
    (hsw : s.switches = some (c, on)) : u = ledSet c on s := by
  cases h with
  | switch c' on' _ hsw' => cases hsw.symm.trans hsw'; rfl
  | store _ _ _ hsw' => cases hsw.symm.trans hsw'
  | watch _ _ _ _ hsw' => cases hsw.symm.trans hsw'

theorem Interacted.dev_of_no_store {s u : State} (h : Interacted s u) (hst : s.stores = none) :
    u.dev = s.devAfter 1 := by
  cases h with
  | store _ _ hst' => cases hst.symm.trans hst'
  | _ => rfl

theorem Interacted.led_of_no_switch {s u : State} (h : Interacted s u) (hsw : s.switches = none) : u.led = s.led := by
  cases h with
  | switch _ _ _ hsw' => cases hsw.symm.trans hsw'
  | _ => rfl

section
variable {s t : State} (h : step s = .next t) (hs : s.scriptedReset = none)
include h hs

/-- A step at a position that stores or switches is an interaction. -/
theorem step_acts {r : Running} (hb : s.busy = true) (hr : s.run = some r) (hn : ∀ j x, r ≠ .respond j x) :
    ∃ u, Interacted s u ∧ t.atPorts = u.atPorts := by
  rcases step_busy_cases h hs hb with ⟨i, ha, -⟩ | ⟨j, x, hr', -⟩ | ⟨hr', -⟩
  · exact ha
  · cases hr.symm.trans hr'
    exact absurd rfl (hn j x)
  · cases hr.symm.trans hr'

theorem step_of_stores {a v : Byte} (hst : s.stores = some (a, v)) : t.atPorts = (memWrite a v s).2.atPorts := by
  cases hb : s.busy with
  | false => simp [State.stores, hb] at hst
  | true =>
    cases hr : s.run with
    | none => simp [State.stores, hr] at hst
    | some r =>
      obtain ⟨u, hu, ht⟩ := step_acts h hs hb hr (by rintro j x rfl; simp [stores_eq hb hr, Running.stores] at hst)
      exact hu.eq_of_stores hst ▸ ht

theorem step_of_switches {c : BitVec 3} {on : Bool} (hsw : s.switches = some (c, on)) :
    t.atPorts = (ledSet c on s).atPorts := by
  cases hb : s.busy with
  | false => simp [State.switches, hb] at hsw
  | true =>
    cases hr : s.run with
    | none => simp [State.switches, hr] at hsw
    | some r =>
      obtain ⟨u, hu, ht⟩ := step_acts h hs hb hr (by rintro j x rfl; simp [switches_eq hb hr, Running.switches] at hsw)
      exact hu.eq_of_switches hsw ▸ ht

theorem step_dev_of_no_store (hst : s.stores = none) (hbp : s.busy = true ∨ s.port = []) : t.dev = s.devAfter 1 := by
  cases hb : s.busy with
  | true =>
    rcases step_busy_cases h hs hb with ⟨i, ⟨u, hu, ht⟩, -⟩ | ⟨j, x, -, rfl⟩ | ⟨-, rfl⟩
    · obtain ⟨-, -, -, hdev, -⟩ := (atPorts_eq_iff _ _).mp ht
      exact hdev.trans (hu.dev_of_no_store hst)
    · rfl
    · rfl
  | false =>
    rcases step_waiting_cases h hs hb with ⟨cw, rest, hp, -⟩ | ⟨-, rfl⟩
    · simp [hb, hp] at hbp
    · rfl

theorem step_dev_of_accept (hb : s.busy = false) (hp : s.port ≠ []) : t.dev = s.dev := by
  rcases step_waiting_cases h hs hb with ⟨cw, rest, -, ht, -⟩ | ⟨hp', -⟩
  · obtain ⟨-, -, -, hdev, -⟩ := (atPorts_eq_iff _ _).mp ht
    exact hdev
  · exact absurd hp' hp

theorem step_led_of_no_switch (hsw : s.switches = none) : t.led = s.led := by
  cases hb : s.busy with
  | true =>
    rcases step_busy_cases h hs hb with ⟨i, ⟨u, hu, ht⟩, -⟩ | ⟨j, x, -, rfl⟩ | ⟨-, rfl⟩
    · obtain ⟨-, -, -, -, hled⟩ := (atPorts_eq_iff _ _).mp ht
      exact hled.trans (hu.led_of_no_switch hsw)
    · rfl
    · rfl
  | false =>
    rcases step_waiting_cases h hs hb with ⟨cw, rest, -, ht, -⟩ | ⟨-, rfl⟩
    · obtain ⟨-, -, -, -, hled⟩ := (atPorts_eq_iff _ _).mp ht
      exact hled
    · rfl

end

/-- Settles O48: the store and the switch of an interaction are those of the position it is made at, and every other
step leaves the device to itself and the channels alone. -/
theorem onlyBusWritesStoreToTheDevice : Obligations.OnlyBusWritesStoreToTheDevice := by
  intro s t hs h
  refine ⟨fun a v hst => ?_, step_dev_of_no_store h hs, step_dev_of_accept h hs, fun c on hsw => ?_,
    step_led_of_no_switch h hs⟩
  · obtain ⟨-, -, htrace, hdev, -⟩ := (atPorts_eq_iff _ _).mp (step_of_stores h hs hst)
    refine ⟨htrace, hdev, fun b hwf hne => ?_⟩
    rw [hdev]
    exact read_write_other _ a _ b (environ_wf s 0 hwf) hne.symm
  · obtain ⟨-, -, htrace, -, hled⟩ := (atPorts_eq_iff _ _).mp (step_of_switches h hs hsw)
    exact ⟨htrace, hled⟩

/-! ## Reset (R34, R185, R187) -/

/-- Settles O10, from what reset leaves of a state. -/
theorem resetValuesAndWhatResetLeaves : Obligations.ResetValuesAndWhatResetLeaves := by
  have hz (i : BitVec 3) : resultAt State.reset.sr i = 0 := Vector.getElem_replicate ..
  refine ⟨⟨rfl, rfl, rfl, rfl, hz, rfl, rfl⟩, fun s landed hs => ⟨resetStep landed s, ?_, ?_⟩⟩
  · rw [step, stepOnce, hs]
  · refine ⟨rfl, rfl, rfl, rfl, hz, rfl, rfl, rfl, rfl, rfl, rfl, rfl, fun h => ?_⟩
    have hf : s.inFlight landed = s.environ 0 := by
      rcases h with rfl | hb
      · rfl
      · simp [State.inFlight, hb]
    exact ⟨congrArg (·.dev) hf, congrArg (·.led) hf⟩

end Sys2Proof.Machine
end

section
/-! What the steps of a command leave of the block's registers: `CAL_STATE` and `FCAUSE`, `ZOFF`, `SR` and `SRV`, the
scan's working registers (R20, R21, R25, R26, R27, R28, R110, R122, R152). -/

namespace Sys2Proof.Machine

/-! ## What a command does around its interactions, by what it writes -/

/-- At its acceptance a command writes only its position, but for `BEGIN` and `SCAN` (R118, R152). -/
theorem startOf_cases (i : Instr) (s : State) :
    (∃ r, startOf i s = s.goto r)
      ∨ (∃ l g x, i = .begin l g x ∧ startOf i s = s.uninitialize.goto (.begin l g x (.resetSet .read)))
      ∨ i = .scan ∧ startOf i s = s.startScan.goto (.scan .lightOn) := by
  cases i with
  | begin l g x => exact .inr (.inl ⟨l, g, x, rfl, rfl⟩)
  | scan => exact .inr (.inr ⟨rfl, rfl⟩)
  | calzero n => cases hn : countFits s.cfg n <;> exact .inl ⟨_, by rw [startOf, hn]; rfl⟩
  | getavg n => cases hn : countFits s.cfg n <;> exact .inl ⟨_, by rw [startOf, hn]; rfl⟩
  | rdsr idx => cases hv : s.srv <;> exact .inl ⟨_, by rw [startOf, hv]; rfl⟩
  | _ => exact .inl ⟨_, rfl⟩

/-- After a read-modify-write a command writes only its position, but for `BEGIN`, which may clear `ITER` or set
`CAL_STATE` (R110, R112). -/
theorem rmw_rest_cases {cfg : Config} {r : Running} {m : RmwAt} (h : r.rmw cfg = some m) (u : State) :
    (∃ r', m.rest u = u.goto r')
      ∨ (∃ l g x, m.instr = .begin l g x)
        ∧ ((∃ r', m.rest u = u.clearPolls.goto r') ∨ ∃ c r', m.rest u = (setCalState c u).goto r') := by
  cases r <;> try cases h
  all_goals try exact .inl ⟨_, rfl⟩
  case begin p =>
    cases p <;> try cases h
    all_goals try exact .inl ⟨_, rfl⟩
    case pua => exact .inr ⟨⟨_, _, _, rfl⟩, .inl ⟨_, rfl⟩⟩
    case pgacap => exact .inr ⟨⟨_, _, _, rfl⟩, .inr ⟨_, _, rfl⟩⟩
    case afe q => cases q <;> cases h <;> exact .inr ⟨⟨_, _, _, rfl⟩, .inr ⟨_, _, rfl⟩⟩
  case calafe q => cases q <;> cases h <;> exact .inl ⟨_, rfl⟩

theorem waiting_rest_eq_goto {cfg : Config} {r : Running} {m : WaitAt} (h : r.waiting cfg = some m) (u : State) :
    ∃ r', m.rest u = u.goto r' := by
  cases r <;> try cases h
  case waitcal => exact ⟨_, rfl⟩
  case begin p => cases p <;> try cases h
                  rename_i q; cases q <;> cases h; exact ⟨_, rfl⟩
  case calafe q => cases q <;> cases h; exact ⟨_, rfl⟩

/-- With its reading a command writes only its position, but for `SCAN`, which gathers it (R152). -/
theorem gettingReading_rest_cases {r : Running} {m : ReadingAt} (h : r.gettingReading = some m) (v : Word) (u : State) :
    (∃ r', m.rest v u = u.goto r') ∨ m.instr = .scan ∧ ∃ x, m.rest v u = (u.gather x).goto (.scan .lightOff) := by
  cases r <;> try cases h
  case scan p => cases p <;> cases h; exact .inr ⟨rfl, _, rfl⟩
  all_goals exact .inl ⟨_, rfl⟩

/-- With its mean a command answers, and `CALZERO` stores it before (R122, R143). -/
theorem averaging_rest_cases {r : Running} {m : AverageAt} (h : r.averaging = some m) (v : Word) (u : State) :
    m.rest v u = u.answer m.instr v
      ∨ ∃ n, m.instr = .calzero n ∧ m.count = n ∧ r = .calzero n m.pos
        ∧ m.rest v u = (u.setZoff v).answer (.calzero n) v := by
  cases r <;> cases h
  · exact .inr ⟨_, rfl, rfl, rfl, rfl⟩
  · exact .inl rfl

/-! ## What a step writes of the registers that outlast it -/

/-- The block's registers but `BUSY`, the position and the polling working registers. -/
def State.regs (s : State) :=
  (s.calState, s.fcause, s.zoff, s.sr, s.srv, s.ch, s.w, s.ledonValid, s.ledonIdx)

theorem regs_eq_iff (s t : State) :
    t.regs = s.regs ↔ SameCal s t ∧ SameZoff s t ∧ SameResults s t ∧ SameScanWork s t := by
  simp [State.regs, SameCal, SameZoff, SameResults, SameScanWork, and_assoc]

@[simp] theorem accept_regs (s : State) (cw : Word) : (s.accept cw).regs = s.regs := rfl
@[simp] theorem goto_regs (s : State) (r : Running) : (s.goto r).regs = s.regs := rfl
@[simp] theorem answer_regs (s : State) (i : Instr) (v : Word) : (s.answer i v).regs = s.regs := rfl
@[simp] theorem deliver_regs (s : State) (r : Response) : (s.deliver r).regs = s.regs := rfl
@[simp] theorem heard_regs (s : State) (a : Byte) : (s.heard a).regs = s.regs := rfl
@[simp] theorem missed_regs (s : State) (a : Byte) : (s.missed a).regs = s.regs := rfl
theorem readSample_regs (s : State) : (readSample s).2.regs = s.regs := rfl
@[simp] theorem memWrite_regs (a v : Byte) (s : State) : (memWrite a v s).2.regs = s.regs := rfl
@[simp] theorem ledSet_regs (c : BitVec 3) (on : Bool) (s : State) : (ledSet c on s).regs = s.regs := rfl
@[simp] theorem delay_regs (k : Word) (s : State) : (delay k s).regs = s.regs := rfl
@[simp] theorem readNow_regs (s : State) : (readNow s).regs = s.regs := rfl
@[simp] theorem stamp_regs (s : State) : s.stamp.regs = s.regs := rfl
@[simp] theorem clearSum_regs (s : State) : s.clearSum.regs = s.regs := rfl
@[simp] theorem addSample_regs (s : State) (v : Word) : (s.addSample v).regs = s.regs := rfl
@[simp] theorem clearPolls_regs (s : State) : s.clearPolls.regs = s.regs := rfl
@[simp] theorem countPoll_regs (s : State) : s.countPoll.regs = s.regs := rfl

/-- What a step of command `i` writes of those registers: nothing, or one of the places where `BEGIN`, `CALZERO` and
`SCAN` write (R110, R118, R122, R152). -/
inductive Wrote (i : Instr) (s t : State) : Prop where
  | nothing (ht : t.regs = s.regs)
  | calibration (l g x : Byte) (hi : i = .begin l g x) (c : BitVec 3) (f : Byte)
      (ht : t.regs = { s with calState := c, fcause := f }.regs)
  | offset (n : BitVec 16) (hi : i = .calzero n) (hr : s.run = some (.calzero n .sample)) (hk : s.k + 1 = n) (v : Word)
      (ht : t.regs = (s.setZoff v).regs) (htr : t.run = some (.respond (some i) (okResponse v)))
  | scan (hi : i = .scan) (ht : SameCal s t ∧ SameZoff s t ∧ SameResults s t)
  | results (hi : i = .scan) (hr : s.run = some (.scan .lightOff)) (hc : s.ch + 1 = s.cfg.nch)
      (ht : SameCal s t ∧ SameZoff s t) (hsr : t.sr = committed s.cfg.nch s.w s.sr) (hsrv : t.srv = true)
      (hch : t.ch = s.cfg.nch) (htr : t.run = some (.respond (some i) (okResponse 0)))

section
variable {i : Instr} {s u : State}

theorem wrote_calibration {t : State} {l g x : Byte} (hu : u.regs = s.regs) (hi : i = .begin l g x) (c : BitVec 3)
    (f : Byte) (ht : t.regs = { u with calState := c, fcause := f }.regs) : Wrote i s t := by
  refine .calibration l g x hi c f (ht.trans ?_)
  obtain ⟨-, h⟩ := Prod.mk.inj hu
  obtain ⟨-, h⟩ := Prod.mk.inj h
  simp only [State.regs, h]

theorem wrote_raise (hu : u.regs = s.regs) (c : Cause) : Wrote i s (u.raise i c) := by
  cases i
  case begin l g x => exact wrote_calibration hu rfl calFaulted c.code rfl
  case scan => cases hv : u.ledonValid <;> exact .nothing (by simpa [State.raise, hv] using hu)
  all_goals exact .nothing hu

theorem wrote_startOf (hu : u.regs = s.regs) : Wrote i s (startOf i u) := by
  rcases startOf_cases i u with ⟨r, he⟩ | ⟨l, g, x, hi, he⟩ | ⟨hi, he⟩
  · exact .nothing (by rw [he, goto_regs, hu])
  · exact wrote_calibration hu hi calUninitialized 0x00 (by rw [he]; rfl)
  · obtain ⟨hcal, hz, hres, -⟩ := (regs_eq_iff s u).mp hu
    exact .scan hi (he ▸ ⟨hcal, hz, hres⟩)

theorem wrote_rmw_rest {cfg : Config} {r : Running} {m : RmwAt} (h : r.rmw cfg = some m) (hi : m.instr = i)
    (hu : u.regs = s.regs) : Wrote i s (m.rest u) := by
  rcases rmw_rest_cases h u with ⟨r', he⟩ | ⟨⟨l, g, x, hb⟩, ⟨r', he⟩ | ⟨c, r', he⟩⟩
  · exact .nothing (by rw [he, goto_regs, hu])
  · exact .nothing (by rw [he, goto_regs, clearPolls_regs, hu])
  · exact wrote_calibration hu (hi.symm.trans hb) c u.fcause (by rw [he]; rfl)

theorem wrote_waiting_rest {cfg : Config} {r : Running} {m : WaitAt} (h : r.waiting cfg = some m)
    (hu : u.regs = s.regs) : Wrote i s (m.rest u) := by
  obtain ⟨r', he⟩ := waiting_rest_eq_goto h u
  exact .nothing (by rw [he, goto_regs, hu])

theorem wrote_gettingReading_rest {r : Running} {m : ReadingAt} {v : Word} (h : r.gettingReading = some m)
    (hi : m.instr = i) (hu : u.regs = s.regs) : Wrote i s (m.rest v u) := by
  rcases gettingReading_rest_cases h v u with ⟨r', he⟩ | ⟨hs, x, he⟩
  · exact .nothing (by rw [he, goto_regs, hu])
  · obtain ⟨hcal, hz, hres, -⟩ := (regs_eq_iff s u).mp hu
    exact .scan (hi.symm.trans hs) (he ▸ ⟨hcal, hz, hres⟩)

theorem wrote_averaging_rest {r : Running} {m : AverageAt} {v : Word} (h : r.averaging = some m) (hi : m.instr = i)
    (hr : s.run = some r) (hp : m.pos = .sample) (hk : s.k + 1 = m.count) (hu : u.regs = s.regs) :
    Wrote i s (m.rest v u) := by
  rcases averaging_rest_cases h v u with he | ⟨n, hm, rfl, rfl, he⟩
  · exact .nothing (by rw [he, answer_regs, hu])
  · refine .offset _ (hi.symm.trans hm) (hp ▸ hr) hk v ?_ (by rw [he, ← hi, hm]; rfl)
    obtain ⟨⟨hcal, hf⟩, -, ⟨hsr, hsrv⟩, hch, hw, hlv, hli⟩ := (regs_eq_iff s u).mp hu
    rw [he]
    exact (regs_eq_iff _ _).mpr ⟨⟨hcal, hf⟩, rfl, ⟨hsr, hsrv⟩, hch, hw, hlv, hli⟩

end

theorem execStep_wrote {i : Instr} {s t : State} (h : ExecStep i s t) : Wrote i s t := by
  cases h with
  | accepted => exact wrote_startOf (accept_regs ..)
  | rmwWrite _ _ _ _ hv hi => exact wrote_rmw_rest hv hi (memWrite_regs ..)
  | waitSuccess _ _ _ _ hv => exact wrote_waiting_rest hv (heard_regs ..)
  | sampleReading _ _ _ _ hv hi => exact wrote_gettingReading_rest hv hi (readSample_regs s)
  | averageLast _ _ hr _ hv hi hp _ hk =>
    exact wrote_averaging_rest hv hi hr hp hk ((addSample_regs ..).trans (readSample_regs s))
  | averageMore => exact .nothing (readSample_regs s)
  | sampleReadingFault | averageSampleFault => exact wrote_raise (readSample_regs s) _
  | rmwReadFault | rmwWriteFault | waitStartFault | waitFailure | waitErrorFault | waitTimedOut | pollReadingFault
  | averagePollFault | averageTimedOut | getbitFault | availFault | calstatStartFault | calstatErrorFault
  | beginUnpowered | beginPollFault | beginChopFault => exact wrote_raise (by simp) _
  | beginSettle _ l g x _ hi => exact wrote_calibration (delay_regs s.cfg.resetSettleMs s) hi calReset s.fcause rfl
  | beginPowered _ l g x _ hi =>
    exact wrote_calibration (u := (s.heard s.cfg.regMap.fPur.reg).countPoll) (by simp) hi calPoweredUp s.fcause rfl
  | scanOn _ _ hi | scanOff _ _ hi | scanAbort _ _ _ hi => exact .scan hi (by simp [SameCal, SameZoff, SameResults])
  | scanLast _ hr hi hc =>
    exact .results hi hr hc (by simp [SameCal, SameZoff]) (by simp) (by simp) (by simp) (by simp)
  | _ => exact .nothing (by simp)

theorem execStep_sameCal {i : Instr} {s t : State} (h : ExecStep i s t) (hi : ∀ l g x, i ≠ .begin l g x) :
    SameCal s t := by
  cases execStep_wrote h with
  | nothing ht => exact ((regs_eq_iff _ _).mp ht).1
  | calibration l g x h => exact absurd h (hi l g x)
  | offset _ _ _ _ _ ht => exact ((regs_eq_iff _ _).mp ht).1
  | scan _ ht => exact ht.1
  | results _ _ _ ht => exact ht.1

theorem execStep_sameScanWork {i : Instr} {s t : State} (h : ExecStep i s t) (hi : i ≠ .scan) : SameScanWork s t := by
  cases execStep_wrote h with
  | nothing ht | calibration _ _ _ _ _ _ ht | offset _ _ _ _ _ ht => exact ((regs_eq_iff _ _).mp ht).2.2.2
  | scan h | results h => exact absurd h hi

/-- Settles O23: `CAL_STATE` and `FCAUSE` are written by `BEGIN` alone. -/
theorem onlyBeginMovesTheCalibrationState : Obligations.OnlyBeginMovesTheCalibrationState :=
  fun _ _ _ hi h => execStep_sameCal (execStep_of_exec h) hi

/-- Settles O29: `ZOFF` is written where `CALZERO` has its mean, and nowhere else. -/
theorem onlyCalzeroWritesTheZeroOffset : Obligations.OnlyCalzeroWritesTheZeroOffset := by
  intro i s t h
  cases execStep_wrote (execStep_of_exec h) with
  | nothing ht | calibration _ _ _ _ _ _ ht => exact .inl ((regs_eq_iff _ _).mp ht).2.1
  | scan _ ht => exact .inl ht.2.1
  | results _ _ _ ht => exact .inl ht.2
  | offset n hi hr hk v ht htr =>
    have hz : t.zoff = v := ((regs_eq_iff _ _).mp ht).2.1
    exact .inr ⟨n, hi, hr, hk, by rw [htr, hi, hz]; rfl⟩

/-- Settles O40: `SR` and `SRV` are written by the commit after the last channel, and nowhere else. -/
theorem onlyTheLastStepOfScanWritesResults : Obligations.OnlyTheLastStepOfScanWritesResults := by
  intro i s t h
  cases execStep_wrote (execStep_of_exec h) with
  | nothing ht | calibration _ _ _ _ _ _ ht | offset _ _ _ _ _ ht => exact .inl ((regs_eq_iff _ _).mp ht).2.2.1
  | scan _ ht => exact .inl ht.2.2
  | results hi hr hc _ hsr hsrv hch htr =>
    refine .inr ⟨hi, hr, hc, hsrv, hch, fun c => by rw [hsr, resultAt_committed], fun h8 => ⟨by bv_omega, ?_⟩, hi ▸ htr⟩
    rw [hsr, h8, committed_eight]

end Sys2Proof.Machine
end

section
/-! No command but `BEGIN` and `RDSTATE` looks at `CAL_STATE` (R23): a step and a change of `CAL_STATE` commute. -/

namespace Sys2Proof.Machine

section
variable (c : BitVec 3)

theorem setCalState_raise (u : State) {i : Instr} (hi : ∀ l g x, i ≠ .begin l g x) (x : Cause) :
    setCalState c (u.raise i x) = (setCalState c u).raise i x := by
  cases i with
  | begin l g x => exact absurd rfl (hi l g x)
  | scan => cases hv : u.ledonValid <;> simp only [State.raise, setCalState_ledonValid, hv] <;> rfl
  | _ => rfl

theorem setCalState_startOf (u : State) {i : Instr} (hi : ∀ l g x, i ≠ .begin l g x) (hd : i ≠ .rdstate) :
    setCalState c (startOf i u) = startOf i (setCalState c u) := by
  cases i with
  | begin l g x => exact absurd rfl (hi l g x)
  | rdstate => exact absurd rfl hd
  | calzero n => cases hn : countFits u.cfg n <;> simp only [startOf, setCalState_cfg, hn] <;> rfl
  | getavg n => cases hn : countFits u.cfg n <;> simp only [startOf, setCalState_cfg, hn] <;> rfl
  | rdsr idx => cases hv : u.srv <;> simp only [startOf, setCalState_srv, hv] <;> rfl
  | _ => rfl

theorem setCalState_rmw_rest {cfg : Config} {r : Running} {m : RmwAt} (h : r.rmw cfg = some m)
    (hi : ∀ l g x, m.instr ≠ .begin l g x) (u : State) : setCalState c (m.rest u) = m.rest (setCalState c u) := by
  cases r <;> try cases h
  case begin l g x p =>
    have hm := rmw_instr h
    exact absurd (Option.some.inj hm).symm (hi l g x)
  case calafe q => cases q <;> cases h <;> rfl
  all_goals rfl

theorem setCalState_waiting_rest {cfg : Config} {r : Running} {m : WaitAt} (h : r.waiting cfg = some m) (u : State) :
    setCalState c (m.rest u) = m.rest (setCalState c u) := by
  cases r <;> try cases h
  case waitcal => rfl
  case begin p => cases p <;> try cases h
                  rename_i q; cases q <;> cases h; rfl
  case calafe q => cases q <;> cases h; rfl

theorem setCalState_gettingReading_rest {r : Running} {m : ReadingAt} (h : r.gettingReading = some m) (v : Word)
    (u : State) : setCalState c (m.rest v u) = m.rest v (setCalState c u) := by
  cases r <;> try cases h
  case scan p => cases p <;> cases h; rfl
  all_goals rfl

theorem setCalState_averaging_rest {r : Running} {m : AverageAt} (h : r.averaging = some m) (v : Word) (u : State) :
    setCalState c (m.rest v u) = m.rest v (setCalState c u) := by
  cases r <;> cases h <;> rfl

/-! ## The procedures -/

theorem getBit_setCalState (f : BitField) (s : State) :
    getBit f (setCalState c s) = ((getBit f s).1, setCalState c (getBit f s).2) := rfl

theorem readSample_setCalState (s : State) :
    readSample (setCalState c s) = ((readSample s).1, setCalState c (readSample s).2) := rfl

theorem readModifyWrite_setCalState (reg : Byte) (change : Byte → Byte) (p : RmwPos) (s : State) :
    readModifyWrite reg change p (setCalState c s)
      = ((readModifyWrite reg change p s).1, setCalState c (readModifyWrite reg change p s).2) := by
  have hr : memRead reg (setCalState c s) = ((memRead reg s).1, setCalState c (memRead reg s).2) := rfl
  have hw (v : Byte) : memWrite reg v (setCalState c s) = ((memWrite reg v s).1, setCalState c (memWrite reg v s).2) :=
    rfl
  cases p with
  | read => simp only [readModifyWrite, hr]; rcases memRead reg s with ⟨_ | v, u⟩ <;> rfl
  | write v => simp only [readModifyWrite, hw]; rcases memWrite reg v s with ⟨_ | _, u⟩ <;> rfl

theorem calStatus_setCalState (p : StatPos) (s : State) :
    calStatus p (setCalState c s) = ((calStatus p s).1, setCalState c (calStatus p s).2) := by
  cases p <;> simp only [calStatus, getBit_setCalState, setCalState_cfg] <;>
    rcases getBit _ s with ⟨_ | _ | _, u⟩ <;> rfl

theorem waitCal_setCalState (t : Int) (p : WaitPos) (s : State) :
    waitCal t p (setCalState c s) = ((waitCal t p s).1, setCalState c (waitCal t p s).2) := by
  cases p with
  | stat q =>
    simp only [waitCal, calStatus_setCalState]
    rcases calStatus q s with ⟨_ | (_ | _ | _) | _, u⟩ <;> rfl
  | _ => rfl

theorem getReading_setCalState (p : ReadPos) (s : State) :
    getReading p (setCalState c s) = ((getReading p s).1, setCalState c (getReading p s).2) := by
  cases p with
  | poll =>
    simp only [getReading, available, getBit_setCalState, setCalState_cfg]
    rcases getBit _ s with ⟨_ | _ | _, u⟩ <;> rfl
  | sample =>
    simp only [getReading, readSample_setCalState]
    rcases readSample s with ⟨_ | v, u⟩ <;> rfl
  | pause => rfl

theorem average_setCalState (n : BitVec 16) (p : AvgPos) (s : State) :
    average n p (setCalState c s) = ((average n p s).1, setCalState c (average n p s).2) := by
  cases p with
  | poll =>
    simp only [average, available, getBit_setCalState, setCalState_cfg]
    rcases getBit _ s with ⟨_ | _ | _, u⟩ <;> rfl
  | sample =>
    simp only [average, readSample_setCalState]
    rcases readSample s with ⟨_ | v, u⟩ <;> rfl
  | _ => rfl

theorem resume_setCalState {π α : Type} {i : Instr} (hi : ∀ l g x, i ≠ .begin l g x) (back : π → Running)
    {rest : α → State → State} (hr : ∀ a u, setCalState c (rest a u) = rest a (setCalState c u))
    (x : Res π α × State) : resume i back rest (x.1, setCalState c x.2) = setCalState c (resume i back rest x) := by
  obtain ⟨_ | a | e, u⟩ := x
  · rfl
  · exact (hr a u).symm
  · exact (setCalState_raise c u hi e).symm

/-! ## The commands -/

theorem setCalState_scanNext (u : State) : setCalState c (scanNext u) = scanNext (setCalState c u) := by
  by_cases hc : u.ch + 1 = u.cfg.nch
  · rw [scanNext, scanNext, if_pos hc, if_pos (by exact hc)]
    rfl
  · rw [scanNext, scanNext, if_neg hc, if_neg (by exact hc)]
    rfl

section
variable {s t : State} {r : Running} (hb : s.busy = true) (hr : s.run = some r)
include hb hr

theorem exec_rmw_setCalState {m : RmwAt} (hv : r.rmw s.cfg = some m) (hi : ∀ l g x, m.instr ≠ .begin l g x)
    (h : exec m.instr s = .next t) : exec m.instr (setCalState c s) = .next (setCalState c t) := by
  rw [exec_rmw s r m hb hr hv] at h
  cases h
  rw [exec_rmw (setCalState c s) r m hb hr hv, readModifyWrite_setCalState,
    resume_setCalState c hi _ fun _ => setCalState_rmw_rest c hv hi]

theorem exec_waiting_setCalState {m : WaitAt} (hv : r.waiting s.cfg = some m) (hi : ∀ l g x, m.instr ≠ .begin l g x)
    (h : exec m.instr s = .next t) : exec m.instr (setCalState c s) = .next (setCalState c t) := by
  rw [exec_waiting s r m hb hr hv] at h
  cases h
  rw [exec_waiting (setCalState c s) r m hb hr hv, waitCal_setCalState, resume_setCalState c hi]
  intro w u
  cases w with
  | success => exact setCalState_waiting_rest c hv u
  | failure => exact setCalState_raise c u hi _
  | timedOut => exact setCalState_raise c u hi _

theorem exec_reading_setCalState {m : ReadingAt} (hv : r.gettingReading = some m)
    (hi : ∀ l g x, m.instr ≠ .begin l g x) (h : exec m.instr s = .next t) :
    exec m.instr (setCalState c s) = .next (setCalState c t) := by
  rw [exec_reading s r m hb hr hv] at h
  cases h
  rw [exec_reading (setCalState c s) r m hb hr hv, getReading_setCalState,
    resume_setCalState c hi _ (setCalState_gettingReading_rest c hv)]

theorem exec_averaging_setCalState {m : AverageAt} (hv : r.averaging = some m)
    (hi : ∀ l g x, m.instr ≠ .begin l g x) (h : exec m.instr s = .next t) :
    exec m.instr (setCalState c s) = .next (setCalState c t) := by
  rw [exec_averaging s r m hb hr hv] at h
  cases h
  rw [exec_averaging (setCalState c s) r m hb hr hv, average_setCalState,
    resume_setCalState c hi _ (setCalState_averaging_rest c hv)]

end

section
variable {s t : State} (hb : s.busy = true)
include hb

theorem exec_getbit_setCalState {reg : Byte} {bit : BitVec 3} (hr : s.run = some (.getbit reg bit))
    (h : exec (.getbit reg bit) s = .next t) : exec (.getbit reg bit) (setCalState c s) = .next (setCalState c t) := by
  rw [getbit_at s reg bit hb hr] at h
  cases h
  rw [getbit_at (setCalState c s) reg bit hb hr, getBit_setCalState]
  rcases getBit _ s with ⟨_ | _, u⟩ <;> rfl

theorem exec_avail_setCalState (hr : s.run = some .avail) (h : exec .avail s = .next t) :
    exec .avail (setCalState c s) = .next (setCalState c t) := by
  rw [avail_at s hb hr] at h
  cases h
  rw [avail_at (setCalState c s) hb hr, available, getBit_setCalState, available, setCalState_cfg]
  rcases getBit _ s with ⟨_ | _, u⟩ <;> rfl

theorem exec_calstat_setCalState {p : StatPos} (hr : s.run = some (.calstat p)) (h : exec .calstat s = .next t) :
    exec .calstat (setCalState c s) = .next (setCalState c t) := by
  rw [calstat_at s p hb hr] at h
  cases h
  rw [calstat_at (setCalState c s) p hb hr, calStatus_setCalState,
    resume_setCalState c (i := .calstat) nofun]
  exact fun _ _ => rfl

theorem exec_scan_setCalState {p : ScanPos} (hr : s.run = some (.scan p)) (h : exec .scan s = .next t) :
    exec .scan (setCalState c s) = .next (setCalState c t) := by
  cases p with
  | lightOn => rw [scan_lightOn s hb hr] at h; cases h; exact scan_lightOn (setCalState c s) hb hr
  | settle => rw [scan_settle s hb hr] at h; cases h; exact scan_settle (setCalState c s) hb hr
  | reading q => exact exec_reading_setCalState c hb hr rfl nofun h
  | lightOff =>
    rw [scan_lightOff s hb hr] at h
    cases h
    rw [scan_lightOff (setCalState c s) hb hr, setCalState_scanNext]
    rfl
  | abort x => rw [scan_abort s x hb hr] at h; cases h; exact scan_abort (setCalState c s) x hb hr

end

end

/-- Settles O50: at its acceptance, in every procedure and at every other interaction a command does the same from
another `CAL_STATE`. -/
theorem noCommandIsGatedByTheCalibrationState : Obligations.NoCommandIsGatedByTheCalibrationState := by
  intro i s t c hi hd h
  show exec i (setCalState c s) = .next (setCalState c t)
  rcases exec_cases h with hb | ⟨hb, x, hr, rfl⟩ | ⟨hb, r, hr, hri, hn⟩ | ⟨hb, rfl, ho⟩
  · rw [exec_accepted i s hb] at h
    cases h
    rw [exec_accepted i (setCalState c s) hb, setCalState_startOf c _ hi hd]
    rfl
  · exact exec_respond i (setCalState c s) x hb hr
  · cases r with
    | respond j x => exact absurd rfl (hn j x)
    | begin l g x p => exact absurd (Option.some.inj hri).symm (hi l g x)
    | getbit => cases hri; exact exec_getbit_setCalState c hb hr h
    | avail => cases hri; exact exec_avail_setCalState c hb hr h
    | calstat => cases hri; exact exec_calstat_setCalState c hb hr h
    | scan => cases hri; exact exec_scan_setCalState c hb hr h
    | waitcal => cases hri; exact exec_waiting_setCalState c hb hr rfl hi h
    | getrd | getled => cases hri; exact exec_reading_setCalState c hb hr rfl hi h
    | getavg | calzero => cases hri; exact exec_averaging_setCalState c hb hr rfl hi h
    | calafe tmo p =>
      cases hri
      cases p with
      | wait => exact exec_waiting_setCalState c hb hr rfl hi h
      | _ => exact exec_rmw_setCalState c hb hr rfl hi h
    | _ => cases hri; exact exec_rmw_setCalState c hb hr rfl hi h
  · exact exec_other i (setCalState c t) hb ho

end Sys2Proof.Machine
end

section
/-! The calibration state machine and the power-up polls over a step (R20, R21, R29, R110, R112, R118). -/

namespace Sys2Proof.Machine

/-! ## The steps of `BEGIN` -/

/-- `PowerUp` polls at this position of `BEGIN` (R112). -/
def BeginPos.Polls (p : BeginPos) : Prop := p = .purPoll ∨ p = .purPause

/-- What a step of `BEGIN` from position `p` leaves: it stands at a position whose sub-step's state it has reached, or
it has ended Ready, or Faulted with a cause of its own. `ITER` starts at 0 and counts a poll that is not the last (R110,
R112, R118). -/
inductive BeginStep (s t : State) (p : BeginPos) : Prop where
  | on (l g x : Byte) (q : BeginPos) (hr : t.run = some (.begin l g x q)) (hf : t.fcause = s.fcause)
      (hc : t.calState = q.phase ∨ t.calState = s.calState ∧ q.phase = p.phase)
      (hp : q.Polls → t.iter = 0 ∨ p.Polls ∧ (t.iter = s.iter ∨ t.iter = s.iter + 1 ∧ s.iter + 1 ≠ s.cfg.puPollMax))
  | ready (i : Option Instr) (x : Response) (hr : t.run = some (.respond i x)) (hc : t.calState = calReady)
      (hf : t.fcause = s.fcause)
  | failed (i : Option Instr) (x : Response) (hr : t.run = some (.respond i x)) (hc : t.calState = calFaulted)
      (hf : t.fcause = 0x01 ∨ t.fcause = 0x02 ∨ t.fcause = 0x03 ∨ t.fcause = 0x04)

section
variable {s u : State} {l g x : Byte} {p : BeginPos} {cfg : Config}

theorem beginStep_raise {c : Cause} (hc : c ∈ causesOf (.begin l g x)) : BeginStep s (u.raise (.begin l g x) c) p :=
  .failed _ _ rfl rfl (code_of_begin c hc)

/-- To a position of the same sub-step at which `PowerUp` does not poll. -/
theorem beginStep_goto (hu : SameCal s u) {q : BeginPos} (hq : q.phase = p.phase) (hn : ¬ q.Polls) :
    BeginStep s (u.goto (.begin l g x q)) p :=
  .on l g x q rfl hu.2 (.inr ⟨hu.1, hq⟩) fun h => absurd h hn

/-- To the first position of the next sub-step. -/
theorem beginStep_advance (hu : u.fcause = s.fcause) {q : BeginPos} (hn : ¬ q.Polls) :
    BeginStep s ((setCalState q.phase u).goto (.begin l g x q)) p :=
  .on l g x q rfl hu (.inl rfl) fun h => absurd h hn

theorem rmw_back_of_begin {m : RmwAt} (h : (Running.begin l g x p).rmw cfg = some m) (w : RmwPos) :
    ∃ q, m.back w = .begin l g x q ∧ q.phase = p.phase ∧ ¬ q.Polls := by
  cases p <;> try cases h
  case afe q => cases q <;> cases h <;> exact ⟨_, rfl, rfl, by simp [BeginPos.Polls]⟩
  all_goals exact ⟨_, rfl, rfl, by simp [BeginPos.Polls]⟩

theorem beginStep_rmw_rest {m : RmwAt} (h : (Running.begin l g x p).rmw cfg = some m) (hu : SameCal s u) :
    BeginStep s (m.rest u) p := by
  have hn : ∀ q, ¬ (BeginPos.afe q).Polls := by simp [BeginPos.Polls]
  cases p <;> try cases h
  case pua => exact .on l g x .purPoll rfl hu.2 (.inr ⟨hu.1, rfl⟩) fun _ => .inl rfl
  case pgacap => exact beginStep_advance (q := .afe (.start .read)) hu.2 (hn _)
  case afe q =>
    cases q <;> cases h
    · exact beginStep_advance (q := .afe (.wait .stamp)) hu.2 (hn _)
    · exact .ready _ _ rfl rfl hu.2
  all_goals exact beginStep_goto hu rfl (by simp [BeginPos.Polls])

theorem waiting_back_of_begin {m : WaitAt} (h : (Running.begin l g x p).waiting cfg = some m) (w : WaitPos) :
    ∃ q, m.back w = .begin l g x q ∧ q.phase = p.phase ∧ ¬ q.Polls := by
  cases p <;> try cases h
  case afe q => cases q <;> cases h; exact ⟨_, rfl, rfl, by simp [BeginPos.Polls]⟩

theorem beginStep_waiting_rest {m : WaitAt} (h : (Running.begin l g x p).waiting cfg = some m) (hu : SameCal s u) :
    BeginStep s (m.rest u) p := by
  cases p <;> try cases h
  case afe q => cases q <;> cases h; exact beginStep_goto hu rfl (by simp [BeginPos.Polls])

theorem execStep_beginStep {t : State} (h : ExecStep (.begin l g x) s t) (hb : s.busy = true)
    (hrun : s.run = some (.begin l g x p)) : BeginStep s t p := by
  cases h with
  | accepted hb' => simp [hb] at hb'
  | respond _ _ hr => cases hrun.symm.trans hr
  | other _ hn => exact absurd rfl (hn _ hrun)
  | rmwRead _ _ hr m hv =>
    cases hrun.symm.trans hr
    obtain ⟨q, hq, hph, hn⟩ := rmw_back_of_begin hv (.write (m.change (s.byteAt 0 m.reg)))
    exact hq ▸ beginStep_goto (by simp [SameCal, State.heard]) hph hn
  | rmwWrite _ _ hr m hv =>
    cases hrun.symm.trans hr
    exact beginStep_rmw_rest hv (by simp [SameCal])
  | waitStamp _ _ hr m hv | waitBusy _ _ hr m hv | waitEnded _ _ hr m hv | waitInTime _ _ hr m hv
  | waitPause _ _ hr m hv =>
    cases hrun.symm.trans hr
    obtain ⟨q, hq, hph, hn⟩ := waiting_back_of_begin hv _
    exact hq ▸ beginStep_goto (by simp [SameCal, State.heard]) hph hn
  | waitSuccess _ _ hr m hv =>
    cases hrun.symm.trans hr
    exact beginStep_waiting_rest hv (by simp [SameCal, State.heard])
  | rmwReadFault | rmwWriteFault | waitStartFault | waitErrorFault | waitFailure | waitTimedOut | beginUnpowered
  | beginPollFault | beginChopFault => exact beginStep_raise (by simp [causesOf])
  | beginHold _ _ _ _ hr | beginChop _ _ _ _ hr =>
    cases hrun.symm.trans hr
    exact beginStep_goto (by simp [SameCal]) rfl (by simp [BeginPos.Polls])
  | beginSettle _ _ _ _ hr =>
    exact beginStep_advance (q := .pud .read) (by simp) (by simp [BeginPos.Polls])
  | beginPowered _ _ _ _ hr =>
    exact beginStep_advance (q := .ldo .read) (by simp [State.heard]) (by simp [BeginPos.Polls])
  | beginPollAgain _ _ _ _ hr _ _ _ hk =>
    cases hrun.symm.trans hr
    exact .on _ _ _ .purPause rfl rfl (.inr ⟨rfl, rfl⟩) fun _ => .inr ⟨.inl rfl, .inr ⟨rfl, hk⟩⟩
  | beginPause _ _ _ _ hr =>
    cases hrun.symm.trans hr
    exact .on _ _ _ .purPoll rfl rfl (.inr ⟨rfl, rfl⟩) fun _ => .inr ⟨.inr rfl, .inl rfl⟩
  | pollReading _ _ hr _ hv | pollReadingFault _ _ hr _ hv | sampleReading _ _ hr _ hv | sampleReadingFault _ _ hr _ hv
  | pauseReading _ _ hr _ hv | averageStamp _ _ hr _ hv | averagePoll _ _ hr _ hv | averagePollFault _ _ hr _ hv
  | averageLast _ _ hr _ hv | averageMore _ _ hr _ hv | averageSampleFault _ _ hr _ hv | averageTimedOut _ _ hr _ hv
  | averageInTime _ _ hr _ hv | averagePause _ _ hr _ hv =>
    cases hrun.symm.trans hr
    cases hv
  | getbit _ _ _ hr | getbitFault _ _ _ hr | avail _ hr | availFault _ hr | calstatBusy _ hr | calstatEnded _ hr
  | calstatStartFault _ hr | calstatResult _ hr | calstatErrorFault _ hr | scanOn _ hr | scanSettle _ hr
  | scanLast _ hr | scanOff _ hr | scanAbort _ _ hr => cases hrun.symm.trans hr

end

/-! ## A command other than `BEGIN` -/

/-- While a command other than `BEGIN` is in execution, the position is not one of `BEGIN`. -/
theorem State.Runs.ne_begin {s : State} {i : Instr} (h : s.Runs i) (hi : ∀ l g x, i ≠ .begin l g x) {l g x : Byte}
    {p : BeginPos} : s.run ≠ some (.begin l g x p) := by
  obtain ⟨r, hr, hri⟩ := h
  intro hrun
  cases hr.symm.trans hrun
  exact hi l g x (Option.some.inj hri).symm

/-- From any position but one of `BEGIN`, a command does not come to one, and leaves `CAL_STATE` and `FCAUSE`. -/
theorem exec_outside_begin {i : Instr} {s t : State} {r : Running} (he : exec i s = .next t) (hb : s.busy = true)
    (hr : s.run = some r) (hi : r.instr = some i) (hn : ∀ l g x p, r ≠ .begin l g x p) :
    (∀ l g x p, t.busy = true → t.run ≠ some (.begin l g x p)) ∧ SameCal s t := by
  by_cases hx : ∃ y, r = .respond (some i) y
  · obtain ⟨y, rfl⟩ := hx
    rw [exec_respond i s y hb hr] at he
    cases he
    exact ⟨nofun, rfl, rfl⟩
  · have hi' : ∀ l g x, i ≠ .begin l g x := by
      rintro l g x rfl
      cases r with
      | respond j y => cases hi; exact hx ⟨y, rfl⟩
      | begin l' g' x' p => exact hn l' g' x' p rfl
      | _ => cases hi
    have hs := execStep_of_exec he
    have ha := execStep_actsIn hs hb ⟨r, hr, hi⟩ fun y hy => hx ⟨y, Option.some.inj (hr.symm.trans hy)⟩
    exact ⟨fun l g x p _ => ha.2.ne_begin hi', execStep_sameCal hs hi'⟩

/-- Where a step of the machine leads: to what `BEGIN` leaves, or to a state with `CAL_STATE` and `FCAUSE` unchanged and
no position of `BEGIN`, or with the same position; `BEGIN` is accepted, or the block is reset. -/
inductive CalStep (s t : State) : Prop where
  | reset (hb : t.busy = false) (hc : t.calState = calUninitialized) (hf : t.fcause = 0x00)
  | start (hb : s.busy = false) (htb : t.busy = true) (l g x : Byte)
      (hr : t.run = some (.begin l g x (.resetSet .read)))
      (hc : t.calState = calUninitialized) (hf : t.fcause = 0x00)
  | inside (hb : s.busy = true) (htb : t.busy = true) (l g x : Byte) (p : BeginPos) (hr : s.run = some (.begin l g x p))
      (ht : BeginStep s t p)
  | outside (hs : ∀ l g x p, s.busy = true → s.run ≠ some (.begin l g x p))
      (ht : ∀ l g x p, t.busy = true → t.run ≠ some (.begin l g x p)) (hc : SameCal s t)

theorem step_calStep {s t : State} (h : step s = .next t) : CalStep s t := by
  rcases step_cases h with ⟨landed, -, rfl⟩ | ⟨-, hb, cw, rest, i, -, -, he⟩ | ⟨-, hb, cw, rest, -, -, rfl⟩
    | ⟨-, hb, r, i, hr, hi, he⟩ | ⟨-, -, r, hr, rfl⟩ | ⟨-, hbr, rfl⟩
  · exact .reset rfl rfl rfl
  · rw [exec_accepted i _ (by exact hb)] at he
    cases he
    by_cases hi : ∃ l g x, i = .begin l g x
    · obtain ⟨l, g, x, rfl⟩ := hi
      exact .start hb rfl l g x rfl rfl rfl
    · have hi' : ∀ l g x, i ≠ .begin l g x := fun l g x e => hi ⟨l, g, x, e⟩
      have hc : SameCal (s.withPort rest) _ := execStep_sameCal (.accepted (i := i) hb) hi'
      exact .outside (by simp [hb]) (fun l g x p _ => (startOf_runs i _).ne_begin hi') hc
  · exact .outside (by simp [hb]) nofun ⟨rfl, rfl⟩
  · by_cases hp : ∃ l g x p, r = .begin l g x p
    · obtain ⟨l, g, x, p, rfl⟩ := hp
      cases hi
      have hs := execStep_of_exec he
      have ha := execStep_actsIn hs hb ⟨_, hr, rfl⟩ (by simp [hr])
      exact .inside hb (ha.busy.trans hb) l g x p hr (execStep_beginStep hs hb hr)
    · have hp' : ∀ l g x p, r ≠ .begin l g x p := fun l g x p e => hp ⟨l, g, x, p, e⟩
      obtain ⟨ht, hc⟩ := exec_outside_begin he hb hr hi hp'
      exact .outside (fun l g x p _ hr' => hp' l g x p (Option.some.inj (hr.symm.trans hr'))) ht hc
  · exact .outside (by simp [hr]) nofun ⟨rfl, rfl⟩
  · have hn : ∀ l g x p, s.busy = true → s.run ≠ some (.begin l g x p) := by
      rcases hbr with ⟨hb, -⟩ | ⟨-, hr⟩
      · simp [hb]
      · simp [hr]
    exact .outside hn hn ⟨rfl, rfl⟩

/-! ## The calibration invariant (R20, R21, R110, R155) -/

/-- `CAL_STATE` and `FCAUSE` between the executions of `BEGIN`: Uninitialized or Ready with no cause, or Faulted with a
cause of `BEGIN`. -/
def State.CalSettled (s : State) : Prop :=
  (s.calState = calUninitialized ∨ s.calState = calReady) ∧ s.fcause = 0x00
    ∨ s.calState = calFaulted ∧ (s.fcause = 0x01 ∨ s.fcause = 0x02 ∨ s.fcause = 0x03 ∨ s.fcause = 0x04)

theorem State.CalSettled.congr {s t : State} (h : s.CalSettled) (ht : SameCal s t) : t.CalSettled := by
  rwa [State.CalSettled, ht.1, ht.2]

theorem calInv_of_settled {s : State} (h : s.CalSettled)
    (hn : ∀ l g x p, s.busy = true → s.run ≠ some (.begin l g x p)) :
    s.CalInv := by
  have hrun : ∀ l g x p, s.busy = true → s.run = some (.begin l g x p) → s.calState = p.phase ∧ s.fcause = 0x00 :=
    fun l g x p hb hr => absurd hr (hn l g x p hb)
  rcases h with ⟨hc | hc, hf⟩ | ⟨hc, hf⟩
  · exact ⟨hc ▸ by decide, fun _ => hf, fun h => absurd (hc.symm.trans h) (by decide), hrun, fun _ => .inl hc⟩
  · exact ⟨hc ▸ by decide, fun _ => hf, fun h => absurd (hc.symm.trans h) (by decide), hrun, fun _ => .inr (.inl hc)⟩
  · exact ⟨hc ▸ by decide, fun h => absurd hc h, fun _ => hf, hrun, fun _ => .inr (.inr hc)⟩

theorem State.CalInv.settled {s : State} (h : s.CalInv)
    (hn : ∀ l g x p, s.busy = true → s.run ≠ some (.begin l g x p)) :
    s.CalSettled := by
  obtain ⟨-, hz, hf, -, hc⟩ := h
  rcases hc hn with hc | hc | hc
  · exact .inl ⟨.inl hc, hz (by rw [hc]; decide)⟩
  · exact .inl ⟨.inr hc, hz (by rw [hc]; decide)⟩
  · exact .inr ⟨hc, hf hc⟩

theorem calInv_of_begin {s : State} {l g x : Byte} {p : BeginPos} (hb : s.busy = true)
    (hr : s.run = some (.begin l g x p)) (hc : s.calState = p.phase) (hf : s.fcause = 0x00) : s.CalInv := by
  obtain ⟨hle, hne⟩ := phase_legal p
  refine ⟨hc ▸ hle, fun _ => hf, fun h => absurd (hc.symm.trans h) hne, fun l' g' x' p' _ hr' => ?_, fun hn => ?_⟩
  · cases hr.symm.trans hr'
    exact ⟨hc, hf⟩
  · exact absurd hr (hn l g x p hb)

/-- Settles O53: a position of `BEGIN` has the state of its sub-step, and its end is Ready or Faulted. -/
theorem stepKeepsTheCalibrationStates : Obligations.StepKeepsTheCalibrationStates := by
  intro s t h hst
  cases step_calStep hst with
  | reset hb hc hf => exact calInv_of_settled (.inl ⟨.inl hc, hf⟩) (by simp [hb])
  | start _ htb l g x hr hc hf => exact calInv_of_begin htb hr hc hf
  | inside hb htb l g x p hr ht =>
    obtain ⟨-, -, -, hin, -⟩ := h
    obtain ⟨hc, hf⟩ := hin l g x p hb hr
    cases ht with
    | on l' g' x' q htr htf htc _ =>
      refine calInv_of_begin htb htr ?_ (htf.trans hf)
      rcases htc with htc | ⟨htc, hq⟩
      · exact htc
      · rw [htc, hc, hq]
    | ready i y htr htc htf => exact calInv_of_settled (.inl ⟨.inr htc, htf.trans hf⟩) (by simp [htr])
    | failed i y htr htc htf => exact calInv_of_settled (.inr ⟨htc, htf⟩) (by simp [htr])
  | outside hs ht hc => exact calInv_of_settled ((h.settled hs).congr hc) ht

/-! ## The power-up polls (R29, R112) -/

/-- Settles O55: polling starts at 0, and a poll is counted only where it is not the last allowed. -/
theorem stepKeepsThePollCount : Obligations.StepKeepsThePollCount := by
  intro s t h hst
  have hcfg : t.cfg = s.cfg := stepKeepsTheParameters s t hst
  intro hmax l g x q htb htr hq
  rw [hcfg] at hmax ⊢
  cases step_calStep hst with
  | reset hb => simp [hb] at htb
  | start _ _ _ _ _ hr => cases htr.symm.trans hr; simp at hq
  | outside _ ht => exact absurd htr (ht l g x q htb)
  | inside hb _ l' g' x' p hr ht =>
    cases ht with
    | ready i y htr' => cases htr.symm.trans htr'
    | failed i y htr' => cases htr.symm.trans htr'
    | on _ _ _ _ htr' _ _ hp =>
      cases htr.symm.trans htr'
      rcases hp hq with h0 | ⟨hpp, hit⟩
      · rw [h0]
        bv_omega
      · have hlt : s.iter < s.cfg.puPollMax := h hmax l' g' x' p hb hr hpp
        rcases hit with hit | ⟨hit, hne⟩ <;> rw [hit]
        · exact hlt
        · bv_omega

end Sys2Proof.Machine
end

section
/-! At most one LED channel is lit, the one `LEDON` names, over a step (R28, R152, R153). -/

namespace Sys2Proof.Machine

/-- `BUSY`, the channel, `LEDON` and the LED channels. -/
def State.lights (s : State) :=
  (s.busy, s.ch, s.ledonValid, s.ledonIdx, s.led)

theorem lights_eq_iff (s t : State) :
    t.lights = s.lights ↔ t.busy = s.busy ∧ t.ch = s.ch ∧ t.ledonValid = s.ledonValid ∧ t.ledonIdx = s.ledonIdx
      ∧ t.led = s.led := by
  simp [State.lights]

theorem environ_log_lights (s : State) (least : Word) (e : Event) : ((s.environ least).log e).lights = s.lights := rfl

theorem gather_lights (s : State) (v : Word) : (s.gather v).lights = s.lights := rfl

theorem getElem_setChannel (led : Vector Bool 8) (c : BitVec 3) (on : Bool) (i : Fin 8) :
    (setChannel led c on)[i] = if c.toNat = i then on else led[i] := by
  simp [setChannel, Vector.getElem_set]

/-! ## The invariant with no channel lit, and with one -/

/-- No channel is lit and `LEDON` is invalid. -/
def State.Dark (s : State) : Prop := (∀ i : Fin 8, s.led[i] = false) ∧ s.ledonValid = false

/-- `LEDON` names a channel, and no other is lit. -/
def State.Lit (s : State) : Prop := (∀ i : Fin 8, s.led[i] = true → s.ledonIdx.toNat = i) ∧ s.ledonValid = true

/-- No position with a channel lit is in execution. -/
def State.Unlit (s : State) : Prop := ∀ r, s.busy = true → s.run = some r → r.lit = false

theorem State.Unlit.eq {s : State} (h : s.Unlit) : (s.busy && (s.run.map Running.lit).getD false) = false := by
  cases hb : s.busy with
  | false => rfl
  | true =>
    cases hr : s.run with
    | none => rfl
    | some r => simp [h r hb hr]

theorem ledInv_of_dark {s : State} (h : s.Dark) (hp : s.Unlit) :
    s.LedInv := by
  refine ⟨fun i hi => absurd hi (by simp [h.1 i]), h.2.trans hp.eq.symm, fun p hb hr hpos => ?_⟩
  have hl : p.lit = false := hp _ hb hr
  rcases hpos with rfl | ⟨q, rfl⟩ | rfl <;> cases hl

theorem ledInv_of_lit {s : State} {p : ScanPos} (h : s.Lit) (hb : s.busy = true) (hr : s.run = some (.scan p))
    (hp : p.lit = true) (hi : (∀ c, p ≠ .abort c) → s.ledonIdx = channelOf s.ch) : s.LedInv := by
  refine ⟨fun i hi => ⟨h.2, h.1 i hi⟩, by simp [h.2, hb, hr, Running.lit, hp], fun q _ hq hpos => hi ?_⟩
  cases hr.symm.trans hq
  rintro c rfl
  rcases hpos with h | ⟨q, h⟩ | h <;> cases h

theorem State.LedInv.dark {s : State} (h : s.LedInv) (hp : s.Unlit) :
    s.Dark := by
  obtain ⟨hled, hv, -⟩ := h
  have hv' : s.ledonValid = false := hv.trans hp.eq
  exact ⟨fun i => by simpa using fun hi => Bool.false_ne_true (hv'.symm.trans (hled i hi).1), hv'⟩

theorem State.LedInv.lit {s : State} {p : ScanPos} (h : s.LedInv) (hb : s.busy = true) (hr : s.run = some (.scan p))
    (hp : p.lit = true) : s.Lit := by
  obtain ⟨hled, hv, -⟩ := h
  exact ⟨fun i hi => (hled i hi).2, by simp [hv, hb, hr, Running.lit, hp]⟩

theorem State.Dark.congr {s t : State} (h : s.Dark) (hv : t.ledonValid = s.ledonValid) (hl : t.led = s.led) : t.Dark :=
  ⟨fun i => hl ▸ h.1 i, hv.trans h.2⟩

theorem State.Lit.congr {s t : State} (h : s.Lit) (ht : t.lights = s.lights) : t.Lit := by
  obtain ⟨-, -, hv, hi, hl⟩ := (lights_eq_iff s t).mp ht
  exact ⟨fun i => by rw [hl, hi]; exact h.1 i, hv.trans h.2⟩

theorem State.Lit.goto {s : State} (h : s.Lit) (r : Running) : (s.goto r).Lit := h

/-- `SCAN` turns its channel on (R152). -/
theorem State.Dark.lit_ledSet {s : State} (h : s.Dark) (c : BitVec 3) : ((ledSet c true s).lit c).Lit := by
  refine ⟨fun i hi => ?_, rfl⟩
  have hg : (setChannel s.led c true)[i] = true := hi
  rw [getElem_setChannel, h.1 i] at hg
  by_contra hne
  rw [if_neg (by exact hne)] at hg
  cases hg

/-- `SCAN` turns the channel `LEDON` names off (R152). -/
theorem State.Lit.dark_ledSet {s : State} (h : s.Lit) {c : BitVec 3} (hc : s.ledonIdx = c) :
    (ledSet c false s).unlit.Dark := by
  refine ⟨fun i => ?_, rfl⟩
  show (setChannel s.led c false)[i] = false
  rw [getElem_setChannel]
  split
  · rfl
  · rename_i hne
    exact Bool.eq_false_iff.mpr fun hi => hne (hc ▸ h.1 i hi)

theorem lit_of_ne_scan {r : Running} (h : ∀ p, r ≠ .scan p) : r.lit = false := by
  cases r with
  | scan p => exact absurd rfl (h p)
  | _ => rfl

/-- While a command other than `SCAN` is in execution, no position with a channel lit is. -/
theorem State.Runs.unlit {s : State} {i : Instr} (h : s.Runs i) (hi : i ≠ .scan) : s.Unlit := by
  obtain ⟨r, hr, hri⟩ := h
  intro r' _ hr'
  cases hr.symm.trans hr'
  exact lit_of_ne_scan fun p hp => hi (Option.some.inj ((hp ▸ hri : (Running.scan p).instr = some i)).symm)

/-! ## The steps of `SCAN` -/

section
variable {s u : State} {p : ScanPos}

/-- `SCAN` goes on with its channel lit. -/
theorem ledInv_goto_lit (h : s.LedInv) (hb : s.busy = true) (hr : s.run = some (.scan p))
    (hp : p = .settle ∨ (∃ q, p = .reading q) ∨ p = .lightOff) (hu : u.lights = s.lights) {q : ScanPos}
    (hq : q.lit = true) : (u.goto (.scan q)).LedInv := by
  have hp' : p.lit = true := by rcases hp with rfl | ⟨_, rfl⟩ | rfl <;> rfl
  obtain ⟨hbu, hch, -, hidx, -⟩ := (lights_eq_iff s u).mp hu
  exact ledInv_of_lit (s := u.goto (.scan q)) (p := q) ((h.lit hb hr hp').congr hu) (hbu.trans hb) rfl hq
    fun _ => (hidx.trans (h.2.2 p hb hr hp)).trans (congrArg channelOf hch.symm)

theorem ledInv_raise_scan (h : s.LedInv) (hb : s.busy = true) {q : ReadPos} (hr : s.run = some (.scan (.reading q)))
    (hu : u.lights = s.lights) (c : Cause) : (u.raise .scan c).LedInv := by
  obtain ⟨-, -, hv, -⟩ := (lights_eq_iff s u).mp hu
  have hv' : u.ledonValid = true := hv.trans (h.lit hb hr rfl).2
  rw [State.raise, hv', if_pos rfl]
  exact ledInv_goto_lit h hb hr (.inr (.inl ⟨q, rfl⟩)) hu rfl

theorem scan_reading_ledInv {t : State} {q : ReadPos} (h : s.LedInv) (hb : s.busy = true)
    (hr : s.run = some (.scan (.reading q))) (ht : exec .scan s = .next t) : t.LedInv := by
  have hgo {u : State} (hu : u.lights = s.lights) {q' : ScanPos} (hq : q'.lit = true) : (u.goto (.scan q')).LedInv :=
    ledInv_goto_lit h hb hr (.inr (.inl ⟨q, rfl⟩)) hu hq
  rw [scan_reading s q hb hr] at ht
  cases ht
  rcases getReading_cases rfl with ⟨-, -, hx⟩ | ⟨-, -, hx⟩ | ⟨-, -, hx⟩ | ⟨-, -, hx⟩ | ⟨-, hx⟩ <;> rw [hx]
  · exact hgo (environ_log_lights s 0 _) rfl
  · exact ledInv_raise_scan h hb hr (environ_log_lights s 0 _) _
  · exact hgo ((gather_lights ..).trans (environ_log_lights s 0 _)) rfl
  · exact ledInv_raise_scan h hb hr (environ_log_lights s 0 _) _
  · exact hgo (environ_log_lights s _ _) rfl

/-- Every step of `SCAN` before its response (R152). -/
theorem exec_scan_ledInv {t : State} (h : s.LedInv) (hb : s.busy = true) (hr : s.run = some (.scan p))
    (ht : exec .scan s = .next t) : t.LedInv := by
  cases p with
  | lightOn =>
    rw [scan_lightOn s hb hr] at ht
    cases ht
    have hd : s.Dark := h.dark fun r _ hr' => by cases hr.symm.trans hr'; rfl
    exact ledInv_of_lit (p := .settle) ((hd.lit_ledSet (channelOf s.ch)).goto _) (by simpa using hb) rfl rfl
      fun _ => by simp
  | settle =>
    rw [scan_settle s hb hr] at ht
    cases ht
    exact ledInv_goto_lit h hb hr (.inl rfl) rfl rfl
  | reading q => exact scan_reading_ledInv h hb hr ht
  | lightOff =>
    rw [scan_lightOff s hb hr] at ht
    cases ht
    have hd := (h.lit hb hr rfl).dark_ledSet (h.2.2 _ hb hr (.inr (.inr rfl)))
    rw [scanNext]
    split
    · exact ledInv_of_dark hd fun r _ hr' => by cases hr'; rfl
    · exact ledInv_of_dark hd fun r _ hr' => by cases hr'; rfl
  | abort c =>
    rw [scan_abort s c hb hr] at ht
    cases ht
    exact ledInv_of_dark ((h.lit hb hr rfl).dark_ledSet rfl) fun r _ hr' => by cases hr'; rfl

end

/-! ## The other steps -/

/-- From any position but one of `SCAN`, a command does not come to one, and leaves `LEDON` and the channels. -/
theorem exec_outside_scan {i : Instr} {s t : State} {r : Running} (he : exec i s = .next t) (hb : s.busy = true)
    (hr : s.run = some r) (hi : r.instr = some i) (hn : ∀ p, r ≠ .scan p) :
    t.Unlit ∧ t.ledonValid = s.ledonValid ∧ t.led = s.led := by
  by_cases hx : ∃ y, r = .respond (some i) y
  · obtain ⟨y, rfl⟩ := hx
    rw [exec_respond i s y hb hr] at he
    cases he
    exact ⟨nofun, rfl, rfl⟩
  · have hi' : i ≠ .scan := by
      rintro rfl
      cases r with
      | respond j y => cases hi; exact hx ⟨y, rfl⟩
      | scan p => exact hn p rfl
      | _ => cases hi
    have hs := execStep_of_exec he
    obtain ⟨⟨u, hu, ht⟩, ha⟩ := execStep_actsIn hs hb ⟨r, hr, hi⟩ fun y hy => hx ⟨y, Option.some.inj (hr.symm.trans hy)⟩
    have hsw : s.switches = none := by
      rw [switches_eq hb hr]
      cases r with
      | scan p => exact absurd rfl (hn p)
      | _ => rfl
    exact ⟨ha.unlit hi', (execStep_sameScanWork hs hi').2.2.1,
      ((atPorts_eq_iff _ _).mp ht).2.2.2.2.trans (hu.led_of_no_switch hsw)⟩

/-- At its acceptance no command lights a channel. -/
theorem startOf_ledInv {s : State} (h : s.Dark) (i : Instr) (cw : Word) : (startOf i (s.accept cw)).LedInv := by
  by_cases hi : i = .scan
  · subst hi
    exact ledInv_of_dark ⟨h.1, rfl⟩ fun r _ hr => by cases hr; rfl
  · have hled := ((atPorts_eq_iff _ _).mp (startOf_atPorts i (s.accept cw))).2.2.2.2
    refine ledInv_of_dark (h.congr ?_ hled) ((startOf_runs i _).unlit hi)
    rcases startOf_cases i (s.accept cw) with ⟨r, he⟩ | ⟨l, g, x, -, he⟩ | ⟨hs, -⟩
    · simp [he]
    · simp [he]
    · exact absurd hs hi

/-- Settles O56: a channel is lit only between the two `LedSet`s of `SCAN`, and `LEDON` names it. -/
theorem stepKeepsOneChannelLit : Obligations.StepKeepsOneChannelLit := by
  intro s t h hs hst
  have ht : t.LedInv := by
    rcases step_cases hst with ⟨_, hl, -⟩ | ⟨-, hb, cw, rest, i, -, -, he⟩ | ⟨-, hb, cw, rest, -, -, rfl⟩
      | ⟨-, hb, r, i, hr, hi, he⟩ | ⟨-, -, r, hr, rfl⟩ | ⟨-, -, rfl⟩
    · simp [hs] at hl
    · rw [exec_accepted i _ (by exact hb)] at he
      cases he
      exact startOf_ledInv (s := s.withPort rest) (h.dark fun r hb' => by simp [hb] at hb') i _
    · exact ledInv_of_dark (h.dark fun r hb' => by simp [hb] at hb') fun r _ hr => by cases hr; rfl
    · by_cases hp : ∃ p, r = .scan p
      · obtain ⟨p, rfl⟩ := hp
        cases hi
        exact exec_scan_ledInv h hb hr he
      · have hp' : ∀ p, r ≠ .scan p := fun p e => hp ⟨p, e⟩
        obtain ⟨ht, hv, hl⟩ := exec_outside_scan he hb hr hi hp'
        have hd : s.Dark := h.dark fun r' _ hr' => by cases hr.symm.trans hr'; exact lit_of_ne_scan hp'
        exact ledInv_of_dark (hd.congr hv hl) ht
    · exact ledInv_of_dark (h.dark fun r' _ hr' => by cases hr.symm.trans hr'; rfl) nofun
    · exact h
  exact ⟨ht, fun a b ha hb => Fin.ext ((ht.1 a ha).2.symm.trans (ht.1 b hb).2)⟩

/-! ## The invariants at reset (R34, R185) -/

theorem reset_heldInRange : State.reset.HeldInRange := by
  refine ⟨by decide, ?_, fun i => ?_, by decide⟩
  · unfold IsSample; decide
  · have hz : resultAt State.reset.sr i = 0 := Vector.getElem_replicate ..
    rw [hz]
    unfold IsDifference; decide

/-- Settles O51: each invariant is about the reset values alone. -/
theorem invariantsHoldAtReset : Obligations.InvariantsHoldAtReset :=
  ⟨rfl, calInv_of_settled (.inl ⟨.inl rfl, rfl⟩) nofun, rangeInv_of_idle reset_heldInRange rfl,
    fun _ => nofun, ledInv_of_dark ⟨fun i => Vector.getElem_replicate .., rfl⟩ nofun, rfl, nofun, reset_dev_wf,
    by decide⟩

end Sys2Proof.Machine
end

section
/-! A whole scan whose polls are ready (R26, R27, R151, R152, R153): the moves it uses, one channel, all channels. -/

namespace Sys2Proof.Machine

/-! ## Steps in a row -/

theorem execN_step {i : Instr} {s t : State} (h : exec i s = .next t) (n : Nat) : execN i (n + 1) s = execN i n t := by
  rw [execN, h]

theorem execN_add {i : Instr} {m : Nat} {s t : State} (h : execN i m s = .next t) (n : Nat) :
    execN i (m + n) s = execN i n t := by
  induction m generalizing s with
  | zero => cases h; rw [Nat.zero_add]
  | succ m ih =>
    obtain ⟨s', hs⟩ := exec_next i s
    rw [execN_step hs] at h
    rw [Nat.succ_add, execN_step hs, ih h]

/-! ## Moves in a row without a bus write -/

/-- `u` stands `k` moves after `s`, the device's registers changed by the device alone. -/
structure Ahead (s : State) (k : Nat) (u : State) : Prop where
  moves : ∀ j, u.moveAt j = s.moveAt (k + j)
  dev : u.dev = s.devAfter k
  cfg : u.cfg = s.cfg

section
variable {s u v : State} {k : Nat}

theorem Ahead.refl (s : State) : Ahead s 0 s := ⟨fun j => by rw [Nat.zero_add], rfl, rfl⟩

theorem Ahead.congr (h : Ahead s k u) (hm : ∀ j, v.moveAt j = u.moveAt j) (hd : v.dev = u.dev) (hc : v.cfg = u.cfg) :
    Ahead s k v := ⟨fun j => (hm j).trans (h.moves j), hd.trans h.dev, hc.trans h.cfg⟩

theorem Ahead.devAfter (h : Ahead s k u) (j : Nat) : u.devAfter j = s.devAfter (k + j) := by
  induction j with
  | zero => exact h.dev
  | succ j ih => rw [State.devAfter, ih, h.moves, Nat.add_succ, State.devAfter]

theorem Ahead.byteAt (h : Ahead s k u) (j : Nat) (a : Byte) : u.byteAt j a = s.byteAt (k + j) a := by
  rw [State.byteAt, h.devAfter, State.byteAt, Nat.add_succ]

theorem Ahead.bitAt (h : Ahead s k u) (j : Nat) (f : BitField) : u.bitAt j f = s.bitAt (k + j) f := by
  rw [State.bitAt, h.byteAt, State.bitAt]

theorem Ahead.sampleAt (h : Ahead s k u) (j : Nat) : u.sampleAt j = s.sampleAt (k + j) := by
  rw [State.sampleAt, h.byteAt, h.byteAt, h.byteAt, h.cfg, State.sampleAt]

theorem Ahead.trans {l : Nat} (h : Ahead s k u) (h' : Ahead u l v) : Ahead s (k + l) v :=
  ⟨fun j => by rw [h'.moves, h.moves, Nat.add_assoc], by rw [h'.dev, h.devAfter], h'.cfg.trans h.cfg⟩

/-- One interaction that is no bus write. -/
theorem Ahead.environ (h : Ahead s k u) (least : Word) : Ahead s (k + 1) (u.environ least) :=
  h.trans ⟨fun j => by rw [moveAt_environ, Nat.add_comm], rfl, rfl⟩

theorem Ahead.log (h : Ahead s k u) (e : Event) : Ahead s k (u.log e) := h.congr (fun _ => rfl) rfl rfl

theorem Ahead.goto (h : Ahead s k u) (r : Running) : Ahead s k (u.goto r) := h.congr (fun _ => rfl) rfl rfl

theorem Ahead.ledSet (h : Ahead s k u) (c : BitVec 3) (on : Bool) : Ahead s (k + 1) (ledSet c on u) :=
  (h.environ 0).congr (fun _ => rfl) rfl rfl

theorem Ahead.lit (h : Ahead s k u) (c : BitVec 3) : Ahead s k (u.lit c) := h.congr (fun _ => rfl) rfl rfl

theorem Ahead.unlit (h : Ahead s k u) : Ahead s k u.unlit := h.congr (fun _ => rfl) rfl rfl

theorem Ahead.gather (h : Ahead s k u) (x : Word) : Ahead s k (u.gather x) := h.congr (fun _ => rfl) rfl rfl

end

/-! ## One channel -/

/-- `SCAN` has turned its channel on. -/
def State.channelOn (u : State) : State :=
  ((ledSet (channelOf u.ch) true u).lit (channelOf u.ch)).goto (.scan .settle)

/-- The channel has settled. -/
def State.settled (u : State) : State := (delay u.cfg.settleMs u).goto (.scan (.reading .poll))

/-- The poll has read 1. -/
def State.ready (u : State) : State := (u.heard u.cfg.regMap.fCr.reg).goto (.scan (.reading .sample))

/-- The channel's reading is gathered. -/
def State.gathered (u : State) : State :=
  ((readSample u).2.gather (offsetReading u.cfg false (u.sampleAt 0) u.zoff)).goto (.scan .lightOff)

/-- The channel is off again. -/
def State.channelOff (u : State) : State := (ledSet (channelOf u.ch) false u).unlit

/-- The whole of a channel, up to and with its being turned off. -/
def State.channelDone (u : State) : State := u.channelOn.settled.ready.gathered.channelOff

/-- The registers a scan does not work with before its commit, and the words at the port. -/
def State.besideScan (s : State) :=
  (s.calState, s.fcause, s.zoff, s.sr, s.srv, s.acc, s.k, s.t0, s.iter, s.port)

section
variable {s u : State} {k : Nat}

theorem Ahead.channelOn (h : Ahead s k u) : Ahead s (k + 1) u.channelOn := ((h.ledSet _ _).lit _).goto _

theorem Ahead.settled (h : Ahead s k u) : Ahead s (k + 1) u.settled := ((h.environ _).log _).goto _

theorem Ahead.ready (h : Ahead s k u) : Ahead s (k + 1) u.ready := ((h.environ _).log _).goto _

theorem Ahead.gathered (h : Ahead s k u) : Ahead s (k + 1) u.gathered := (((h.environ _).log _).gather _).goto _

theorem Ahead.channelOff (h : Ahead s k u) : Ahead s (k + 1) u.channelOff := (h.ledSet _ _).unlit

theorem Ahead.channelDone (h : Ahead s k u) : Ahead s (k + 5) u.channelDone :=
  h.channelOn.settled.ready.gathered.channelOff

/-! What each of them leaves. -/

@[simp] theorem channelOn_busy : u.channelOn.busy = u.busy := by simp [State.channelOn]
@[simp] theorem settled_busy : u.settled.busy = u.busy := by simp [State.settled]
@[simp] theorem ready_busy : u.ready.busy = u.busy := by simp [State.ready, State.heard]
@[simp] theorem gathered_busy : u.gathered.busy = u.busy := by simp [State.gathered]
@[simp] theorem channelOff_busy : u.channelOff.busy = u.busy := by simp [State.channelOff]
@[simp] theorem channelOn_ch : u.channelOn.ch = u.ch := by simp [State.channelOn]
@[simp] theorem settled_ch : u.settled.ch = u.ch := by simp [State.settled]
@[simp] theorem ready_ch : u.ready.ch = u.ch := by simp [State.ready, State.heard]
@[simp] theorem gathered_ch : u.gathered.ch = u.ch := by simp [State.gathered]
@[simp] theorem channelOff_ch : u.channelOff.ch = u.ch := by simp [State.channelOff]
@[simp] theorem channelOn_w : u.channelOn.w = u.w := by simp [State.channelOn]
@[simp] theorem settled_w : u.settled.w = u.w := by simp [State.settled]
@[simp] theorem ready_w : u.ready.w = u.w := by simp [State.ready, State.heard]
@[simp] theorem gathered_w :
    u.gathered.w = setResult u.w (channelOf u.ch) (offsetReading u.cfg false (u.sampleAt 0) u.zoff) := by
  simp [State.gathered]
@[simp] theorem channelOff_w : u.channelOff.w = u.w := by simp [State.channelOff]
@[simp] theorem channelOn_led : u.channelOn.led = setChannel u.led (channelOf u.ch) true := by simp [State.channelOn]
@[simp] theorem settled_led : u.settled.led = u.led := by simp [State.settled]
@[simp] theorem ready_led : u.ready.led = u.led := by simp [State.ready, State.heard]
@[simp] theorem gathered_led : u.gathered.led = u.led := by simp [State.gathered]
@[simp] theorem channelOff_led : u.channelOff.led = setChannel u.led (channelOf u.ch) false := by
  simp [State.channelOff]
@[simp] theorem channelOff_ledonValid : u.channelOff.ledonValid = false := by simp [State.channelOff]
@[simp] theorem channelOn_besideScan : u.channelOn.besideScan = u.besideScan := by
  simp [State.besideScan, State.channelOn]
@[simp] theorem settled_besideScan : u.settled.besideScan = u.besideScan := by
  simp [State.besideScan, State.settled]
@[simp] theorem ready_besideScan : u.ready.besideScan = u.besideScan := by
  simp [State.besideScan, State.ready, State.heard]
@[simp] theorem gathered_besideScan : u.gathered.besideScan = u.besideScan := by
  simp [State.besideScan, State.gathered]
@[simp] theorem channelOff_besideScan : u.channelOff.besideScan = u.besideScan := by
  simp [State.besideScan, State.channelOff]
@[simp] theorem channelDone_busy : u.channelDone.busy = u.busy := by simp [State.channelDone]
@[simp] theorem channelDone_ch : u.channelDone.ch = u.ch := by simp [State.channelDone]
@[simp] theorem channelDone_ledonValid : u.channelDone.ledonValid = false := by simp [State.channelDone]
@[simp] theorem channelDone_besideScan : u.channelDone.besideScan = u.besideScan := by simp [State.channelDone]
theorem channelDone_led :
    u.channelDone.led = setChannel (setChannel u.led (channelOf u.ch) true) (channelOf u.ch) false := by
  simp [State.channelDone]
theorem channelOn_trace : u.channelOn.trace = .led (channelOf u.ch) true :: u.trace := by simp [State.channelOn]
theorem settled_trace : u.settled.trace = .delay u.cfg.settleMs :: u.trace := by simp [State.settled]
theorem ready_trace :
    u.ready.trace = .rd u.cfg.devAddr u.cfg.regMap.fCr.reg (some (u.byteAt 0 u.cfg.regMap.fCr.reg)) :: u.trace := by
  simp [State.ready, State.heard]
theorem channelOff_trace : u.channelOff.trace = .led (channelOf u.ch) false :: u.trace := by simp [State.channelOff]
theorem gathered_trace (hf : (u.moveAt 0).busFault = none) :
    u.gathered.trace = .rdBlock u.cfg.devAddr u.cfg.regMap.regAdcoB2
      (some (u.byteAt 0 u.cfg.regMap.regAdcoB2, u.byteAt 0 (u.cfg.regMap.regAdcoB2 + 1),
        u.byteAt 0 (u.cfg.regMap.regAdcoB2 + 2))) :: u.trace := by
  rw [← blockAnswer_ok u _ hf]
  simp [State.gathered]

section
variable (hb : u.busy = true)
include hb

theorem exec_channelOn (hr : u.run = some (.scan .lightOn)) : exec .scan u = .next u.channelOn := scan_lightOn u hb hr

theorem exec_settled (hr : u.run = some (.scan .settle)) : exec .scan u = .next u.settled := scan_settle u hb hr

theorem exec_ready (hr : u.run = some (.scan (.reading .poll))) (hf : (u.moveAt 0).busFault = none)
    (hc : u.bitAt 0 u.cfg.regMap.fCr = true) : exec .scan u = .next u.ready := by
  rw [exec_of_execStep (.pollReading hb _ hr _ rfl rfl rfl hf), hc]
  rfl

theorem exec_gathered (hr : u.run = some (.scan (.reading .sample))) (hf : (u.moveAt 0).busFault = none) :
    exec .scan u = .next u.gathered :=
  exec_of_execStep (.sampleReading hb _ hr _ rfl rfl rfl hf)

end

end

/-- The four interactions of a channel before it is turned off, the poll ready and no fault (R152). -/
theorem execN_gathered {u : State} (hb : u.busy = true) (hr : u.run = some (.scan .lightOn))
    (hpoll : (u.moveAt 2).busFault = none) (hread : (u.moveAt 3).busFault = none)
    (hready : u.bitAt 2 u.cfg.regMap.fCr = true) :
    execN .scan 4 u = .next u.channelOn.settled.ready.gathered := by
  have h1 : Ahead u 2 u.channelOn.settled := (Ahead.refl u).channelOn.settled
  have h2 : exec .scan u.channelOn = .next u.channelOn.settled := exec_settled (by simp [hb]) rfl
  have h3 : exec .scan u.channelOn.settled = .next u.channelOn.settled.ready :=
    exec_ready (by simp [hb]) rfl (by rw [h1.moves]; exact hpoll) (by rw [h1.cfg, h1.bitAt]; exact hready)
  have h4 : exec .scan u.channelOn.settled.ready = .next u.channelOn.settled.ready.gathered :=
    exec_gathered (by simp [hb]) rfl (by rw [h1.ready.moves]; exact hread)
  rw [execN_step (exec_channelOn hb hr), execN_step h2, execN_step h3, execN_step h4, execN]

/-! ## All channels -/

theorem channelOf_ofNat (c : Nat) : channelOf (BitVec.ofNat 4 c) = BitVec.ofNat 3 c := by
  apply BitVec.eq_of_toNat_eq
  simp only [channelOf, BitVec.truncate_eq_setWidth, BitVec.toNat_setWidth, BitVec.toNat_ofNat]
  omega

theorem toNat_channel {c : Nat} (hc : c < 8) : (BitVec.ofNat 3 c).toNat = c := by
  rw [BitVec.toNat_ofNat]
  omega

theorem channel_succ_eq_iff {c : Nat} {n : BitVec 4} (hc : c < 8) : BitVec.ofNat 4 c + 1 = n ↔ n.toNat = c + 1 := by
  have h : (BitVec.ofNat 4 c + 1).toNat = c + 1 := by
    simp
    omega
  rw [← BitVec.toNat_inj, h, eq_comm]

/-- What the first `c` channels of a scan from `s` have made of the block and the ports (R152). -/
structure Scanned (s : State) (c : Nat) (u : State) : Prop where
  ahead : Ahead s (5 * c) u
  busy : u.busy = true
  trace : u.trace = s.scanEvents c ++ .accept (encode .scan) :: s.trace
  gathered : ∀ j : BitVec 3, j.toNat < c →
    resultAt u.w j = wordOf s.cfg ((s.sampleAt (5 * j.toNat + 3)).toInt - s.zoff.toInt)
  off : ∀ j : Fin 8, u.led[j] = if j.val < c then false else s.led[j]
  ledon : u.ledonValid = false
  beside : u.besideScan = s.besideScan

/-- The moves of channel `c` make its poll ready and fault nowhere. -/
def State.ChannelReady (s : State) (c : Nat) : Prop :=
  (s.moveAt (5 * c + 2)).busFault = none ∧ (s.moveAt (5 * c + 3)).busFault = none
    ∧ s.bitAt (5 * c + 2) s.cfg.regMap.fCr = true

/-- `SCAN` has been accepted. -/
def State.scanStarted (s : State) : State := (s.accept (encode .scan)).startScan.goto (.scan .lightOn)

theorem exec_scanStarted {s : State} (hb : s.busy = false) : exec .scan s = .next s.scanStarted := scan_accepted s hb

theorem Scanned.start {s : State} : Scanned s 0 s.scanStarted where
  ahead := ((Ahead.refl s).congr (fun _ => by simp) (by simp) (by simp)).goto _
  busy := by simp [State.scanStarted]
  trace := by simp [State.scanStarted, State.scanEvents]
  gathered := fun _ hj => absurd hj (Nat.not_lt_zero _)
  off := fun _ => by simp [State.scanStarted]
  ledon := by simp [State.scanStarted]
  beside := by simp [State.scanStarted, State.besideScan]

section
variable {s u : State} {c : Nat} (h : Scanned s c u) (hch : u.ch = BitVec.ofNat 4 c)
include h

theorem Scanned.zoff_eq : u.zoff = s.zoff := congrArg (·.2.2.1) h.beside

theorem Scanned.nextChannel (r : Running) : Scanned s c (u.nextChannel.goto r) where
  ahead := h.ahead.congr (fun _ => by simp) (by simp) (by simp)
  busy := by simp [h.busy]
  trace := by simp [h.trace]
  gathered := by simpa using h.gathered
  off := by simpa using h.off
  ledon := by simp [h.ledon]
  beside := by rw [← h.beside]; simp [State.besideScan]

/-- The five steps of channel `c`. -/
theorem Scanned.execN_channel (hrun : u.run = some (.scan .lightOn)) (hr : s.ChannelReady c) :
    execN .scan 5 u = .next (scanNext u.channelDone) := by
  obtain ⟨hpoll, hread, hready⟩ := hr
  rw [← h.ahead.moves] at hpoll hread
  rw [← h.ahead.bitAt, ← h.ahead.cfg] at hready
  rw [execN_add (execN_gathered h.busy hrun hpoll hread hready) 1,
    execN_step (scan_lightOff _ (by simp [h.busy]) (by simp [State.gathered]))]
  rfl

include hch

theorem Scanned.channel_trace (hread : (s.moveAt (5 * c + 3)).busFault = none) :
    u.channelDone.trace = s.scanEvents (c + 1) ++ .accept (encode .scan) :: s.trace := by
  have h2 := h.ahead.channelOn.settled
  have hf : (u.channelOn.settled.ready.moveAt 0).busFault = none := by rw [h2.ready.moves]; exact hread
  rw [State.channelDone, channelOff_trace, gathered_trace hf, ready_trace, settled_trace, channelOn_trace, h.trace,
    h2.ready.cfg, h2.cfg, h.ahead.channelOn.cfg, h2.ready.byteAt, h2.ready.byteAt, h2.ready.byteAt, h2.byteAt]
  simp only [gathered_ch, ready_ch, settled_ch, channelOn_ch, hch, channelOf_ofNat]
  rfl

theorem Scanned.channel_off (hc : c < 8) (j : Fin 8) :
    u.channelDone.led[j] = if j.val < c + 1 then false else s.led[j] := by
  rw [channelDone_led, hch, channelOf_ofNat, getElem_setChannel, getElem_setChannel, toNat_channel hc, h.off j]
  by_cases hj : c = j.val
  · rw [if_pos hj, if_pos (by omega)]
  · rw [if_neg hj, if_neg hj]
    exact if_congr (by omega) rfl rfl

theorem Scanned.channel_gathered (hc : c < 8) (j : BitVec 3) (hj : j.toNat < c + 1) :
    resultAt u.channelDone.w j = wordOf s.cfg ((s.sampleAt (5 * j.toNat + 3)).toInt - s.zoff.toInt) := by
  have h3 := h.ahead.channelOn.settled.ready
  have hz : u.channelOn.settled.ready.zoff = s.zoff := by
    rw [← h.zoff_eq]; simp [State.ready, State.heard, State.settled, State.channelOn]
  rw [State.channelDone, channelOff_w, gathered_w, resultAt_setResult, h3.sampleAt, h3.cfg, hz]
  simp only [ready_ch, settled_ch, channelOn_ch, hch, channelOf_ofNat, ready_w, settled_w, channelOn_w]
  by_cases hjc : j = BitVec.ofNat 3 c
  · subst hjc
    simp [toNat_channel hc, offsetReading]
  · have : j.toNat ≠ c := fun he => hjc (by rw [← he]; simp)
    simp only [Ne.symm hjc, if_false]
    exact h.gathered j (by omega)

theorem Scanned.channel (hc : c < 8) (hr : s.ChannelReady c) : Scanned s (c + 1) u.channelDone where
  ahead := h.ahead.channelDone
  busy := by simp [h.busy]
  trace := h.channel_trace hch hr.2.1
  gathered := h.channel_gathered hch hc
  off := h.channel_off hch hc
  ledon := by simp
  beside := by simp [h.beside]

end

/-- All channels but the last are followed by the next one. -/
theorem scanned_before {s : State} (hs : s.cfg.sizesFit = true)
    (hr : ∀ c, c < s.cfg.nch.toNat → s.ChannelReady c) (c : Nat) (hc : c < s.cfg.nch.toNat) :
    ∃ u, execN .scan (5 * c) s.scanStarted = .next u ∧ Scanned s c u ∧ u.run = some (.scan .lightOn)
      ∧ u.ch = BitVec.ofNat 4 c := by
  induction c with
  | zero => exact ⟨_, rfl, .start, by simp [State.scanStarted], by simp [State.scanStarted]⟩
  | succ c ih =>
    obtain ⟨u, hu, h, hrun, hch⟩ := ih (by omega)
    have h8 := ((sizesFit_iff _).mp hs).1.2
    have h' := h.channel hch (by omega) (hr c (by omega))
    refine ⟨_, ?_, h'.nextChannel (.scan .lightOn), by simp, by simp [hch, BitVec.ofNat_add]⟩
    have hne : ¬ u.channelDone.ch + 1 = u.channelDone.cfg.nch := by
      rw [h'.ahead.cfg, channelDone_ch, hch, channel_succ_eq_iff (by omega)]
      omega
    rw [Nat.mul_succ, execN_add hu, h.execN_channel hrun (hr c (by omega)), scanNext, if_neg hne]

/-- The last channel is followed by the commit. -/
theorem scanned_all {s : State} (hs : s.cfg.sizesFit = true)
    (hr : ∀ c, c < s.cfg.nch.toNat → s.ChannelReady c) :
    ∃ u, execN .scan (5 * s.cfg.nch.toNat) s.scanStarted = .next (u.commit.answer .scan 0)
      ∧ Scanned s s.cfg.nch.toNat u := by
  obtain ⟨h1, h8⟩ := ((sizesFit_iff _).mp hs).1
  obtain ⟨c, hn⟩ : ∃ c, s.cfg.nch.toNat = c + 1 := ⟨s.cfg.nch.toNat - 1, by omega⟩
  have hrc : s.ChannelReady c := hr c (by omega)
  obtain ⟨u, hu, h, hrun, hch⟩ := scanned_before hs hr c (by omega)
  have h' := h.channel hch (by omega) hrc
  refine ⟨u.channelDone, ?_, by rw [hn]; exact h'⟩
  have he : u.channelDone.ch + 1 = u.channelDone.cfg.nch := by
    rw [h'.ahead.cfg, channelDone_ch, hch, channel_succ_eq_iff (by omega), hn]
  rw [hn, Nat.mul_succ, execN_add hu, h.execN_channel hrun hrc, scanNext, if_pos he]

/-- Settles O39: five steps a channel by induction on the channels, then the commit and the response. -/
theorem scanCommitsEightReadings : Obligations.ScanCommitsEightReadings := by
  unfold Obligations.ScanCommitsEightReadings
  intro s hb hs n hr
  obtain ⟨u, hu, h⟩ := scanned_all hs hr
  have hlast : exec .scan (u.commit.answer .scan 0) = .next ((u.commit.answer .scan 0).deliver ⟨0x00, 0⟩) :=
    exec_respond .scan _ _ (by simp [h.busy]) rfl
  obtain ⟨hcal, hfc, hz, hsr, hsrv, hacc, hk, ht0, hiter, hport⟩ : _ ∧ _ ∧ _ ∧ _ ∧ _ ∧ _ ∧ _ ∧ _ ∧ _ ∧ _ := by
    simpa [State.besideScan] using h.beside
  refine ⟨_, _, exec_scanStarted hb, by rw [execN_add hu, execN_step hlast, execN], by simp, by simp, fun c => ?_,
    by simp [h.trace, n], fun c => by simpa using h.off c, by simp [h.ledon], by simp [h.ahead.cfg], ?_,
    ⟨by simp [hcal], by simp [hfc]⟩, by simp [SameZoff, hz],
    ⟨by simp [hacc], by simp [hk], by simp [ht0], by simp [hiter]⟩, by simp [h.ahead.cfg], by simp [hport]⟩
  · simp only [deliver_sr, answer_sr, commit_sr, h.ahead.cfg, hsr, resultAt_committed]
    split
    · exact h.gathered c ‹_›
    · rfl
  · rw [← h.ahead.devAfter]; simp

end Sys2Proof.Machine
end

section
/-! The canonical form of the device's register space over a step, a reset that cuts an interaction short included
(R40, R43, R185, R186). -/

namespace Sys2Proof.Machine

/-- The device's own changes and at most one bus write make up an interaction; each keeps the canonical form. -/
theorem Interacted.dev_wf {s u : State} (h : Interacted s u) (hw : Memory.wf s.dev = true) : Memory.wf u.dev = true := by
  cases h with
  | store a v => exact write_wf _ a _ (environ_wf s 0 hw)
  | switch => exact environ_wf s 0 hw
  | watch least => exact environ_wf s least hw

theorem ActsIn.dev_wf {i : Instr} {s t : State} (h : ActsIn i s t) (hw : Memory.wf s.dev = true) :
    Memory.wf t.dev = true := by
  obtain ⟨⟨u, hu, ht⟩, -⟩ := h
  obtain ⟨-, -, -, hdev, -⟩ := (atPorts_eq_iff u t).mp ht
  exact hdev ▸ hu.dev_wf hw

theorem exec_dev_wf {i : Instr} {s t : State} (h : exec i s = .next t) (hw : Memory.wf s.dev = true) :
    Memory.wf t.dev = true := by
  rcases exec_cases h with hb | ⟨-, r, -, rfl⟩ | ⟨hb, r, hr, hi, hn⟩ | ⟨-, rfl, -⟩
  · rw [exec_accepted i s hb] at h
    cases h
    rw [(startOf_outside i _).2.1]
    exact hw
  · exact environ_wf s 0 hw
  · have hx : ∀ x, s.run ≠ some (.respond (some i) x) := fun x hx => hn _ x (Option.some.inj (hr.symm.trans hx))
    exact (execStep_actsIn (execStep_of_exec h) hb ⟨r, hr, hi⟩ hx).dev_wf hw
  · exact hw

/-- What a busy block does, whether or not reset is asserted meanwhile. -/
theorem stepBlock_busy_cases {s t : State} (hb : s.busy = true) (h : stepBlock s = .next t) :
    (∃ i, exec i s = .next t) ∨ (∃ r, t = s.deliver r) ∨ t = s.idle := by
  rw [stepBlock, if_pos hb, continueRun] at h
  cases hr : s.run with
  | none => rw [hr] at h; cases h; exact .inr (.inr rfl)
  | some r =>
    rw [hr] at h
    cases r
    case respond j x =>
      cases j with
      | none => cases h; exact .inr (.inl ⟨x, rfl⟩)
      | some i => exact .inl ⟨i, h⟩
    all_goals exact .inl ⟨_, h⟩

/-- The interaction that a reset cuts short keeps the canonical form whether or not it lands (U13). -/
theorem inFlight_dev_wf {s : State} (landed : Bool) (hw : Memory.wf s.dev = true) :
    Memory.wf (s.inFlight landed).dev = true := by
  unfold State.inFlight
  split
  · rename_i hl
    have hb : s.busy = true := (Bool.and_eq_true_iff.mp hl).2
    split
    · rename_i t ht
      rcases stepBlock_busy_cases hb ht with ⟨i, he⟩ | ⟨r, rfl⟩ | rfl
      · exact exec_dev_wf he hw
      · exact environ_wf s 0 hw
      · exact environ_wf s 0 hw
    · exact environ_wf s 0 hw
  · exact environ_wf s 0 hw

/-- Settles O59: reset leaves the device as the interaction in flight does, and every other step is an acceptance, an
interaction of a command, a response or the device's own changes. -/
theorem stepKeepsTheRegisterSpaceCanonical : Obligations.StepKeepsTheRegisterSpaceCanonical := by
  intro s t hw h
  rcases step_cases h with ⟨landed, -, rfl⟩ | ⟨-, -, cw, rest, i, -, -, he⟩ | ⟨-, -, cw, rest, -, -, rfl⟩
    | ⟨-, -, r, i, -, -, he⟩ | ⟨-, -, r, -, rfl⟩ | ⟨-, -, rfl⟩
  · exact inFlight_dev_wf landed hw
  · exact exec_dev_wf (s := s.withPort rest) he hw
  · exact hw
  · exact exec_dev_wf he hw
  · exact environ_wf s 0 hw
  · exact environ_wf s 0 hw

end Sys2Proof.Machine
end

section
/-! A bus interaction that faults ends its command (R45, R166, R173, R176). -/

namespace Sys2Proof.Machine

theorem State.bad.not_fine {s : State} (h : s.bad) : ¬ s.fine := by
  intro hf
  rw [State.bad, hf] at h
  cases h

/-- A failure is answered at once, unless a scan has a channel to turn off first (R152, R176). -/
theorem raise_run_of_unlit {s : State} {i : Instr} {c : Cause} (h : ¬ (i = .scan ∧ s.ledonValid = true)) :
    (s.raise i c).run = some (.respond (some i) (failResponse c)) :=
  (raise_run s i c).resolve_right fun ⟨hi, hv, _⟩ => h ⟨hi, hv⟩

theorem raise_scan_run_of_lit {s : State} {c : Cause} (h : s.ledonValid = true) :
    (s.raise .scan c).run = some (.scan (.abort c)) := by simp [State.raise, h]

/-- Where a bus fault is due, a command in execution raises `BusFault`, or its interaction is not on the bus. -/
theorem execStep_of_bad {i : Instr} {s t : State} (h : ExecStep i s t) (hb : s.busy = true) (hi : s.Runs i)
    (hm : s.bad) :
    (∃ u : State, t = u.raise i .busFault ∧ u.ledonValid = s.ledonValid ∧ u.ledonIdx = s.ledonIdx)
      ∨ ∃ e, t.trace = e :: s.trace ∧ e.busDevice = none := by
  cases h with
  | accepted hb' => simp [hb] at hb'
  | other _ hn =>
    obtain ⟨r, hr, hi⟩ := hi
    exact absurd hi (hn r hr)
  | rmwReadFault | rmwWriteFault | waitStartFault | waitErrorFault | pollReadingFault | sampleReadingFault
  | averagePollFault | averageSampleFault | getbitFault | availFault | calstatStartFault | calstatErrorFault
  | beginPollFault | beginChopFault => exact .inl ⟨_, rfl, rfl, rfl⟩
  | respond _ r => exact .inr ⟨.resp r, rfl, rfl⟩
  | waitStamp | waitInTime | averageStamp | averageInTime => exact .inr ⟨.now _, rfl, rfl⟩
  | waitTimedOut | averageTimedOut => exact .inr ⟨.now _, raise_trace .., rfl⟩
  | waitPause | pauseReading | averagePause | beginHold | beginSettle | beginPause | scanSettle =>
    exact .inr ⟨.delay _, rfl, rfl⟩
  | scanOn | scanLast | scanOff | scanAbort => exact .inr ⟨.led _ _, rfl, rfl⟩
  | _ => exact absurd ‹s.fine› hm.not_fine

/-- Settles O46: a step on the bus that faults raises `BusFault`, and a failure is answered after the failure action of
its command. -/
theorem anyBusFaultEndsTheCommand : Obligations.AnyBusFaultEndsTheCommand := by
  intro i s t r e hb hr hi hm h htrace he
  rcases execStep_of_bad (execStep_of_exec h) hb ⟨r, hr, hi⟩ hm with ⟨u, rfl, hv, hidx⟩ | ⟨e', htrace', he'⟩
  · rw [← hv]
    split
    · rename_i hlit
      obtain ⟨rfl, hlit⟩ := hlit
      exact ⟨raise_scan_run_of_lit hlit, (raise_ledonIdx ..).trans hidx⟩
    · rename_i hunlit
      refine ⟨raise_run_of_unlit hunlit, ?_⟩
      rintro l g x rfl
      exact ⟨rfl, rfl⟩
  · obtain rfl : e = e' := (List.cons.inj (htrace.symm.trans htrace')).1
    simp [he'] at he

end Sys2Proof.Machine
end

section
/-! The opcode table, the decoder and the encoder agree (R65 to R70): a word decodes through the one row whose compared
bits it carries. -/

namespace Sys2Proof

/-! ## The opcode and the reserved bits are the compared bits (R66, R69) -/

theorem append_inj_iff {m n : Nat} {x x' : BitVec m} {y y' : BitVec n} :
    x ++ y = x' ++ y' ↔ x = x' ∧ y = y' := by
  refine ⟨fun h => ?_, by rintro ⟨rfl, rfl⟩; rfl⟩
  have hy : y = y' := by simpa [BitVec.setWidth_append] using congrArg (BitVec.setWidth n) h
  subst hy
  exact ⟨(BitVec.append_left_inj y).mp h, rfl⟩

/-- Every format compares the whole opcode (R66). -/
theorem Format.mask_eq (fmt : Format) : fmt.mask = 0xFF#8 ++ low24 fmt.mask := by
  cases fmt <;> decide

theorem Format.reserved_eq (fmt : Format) : fmt.reserved = 0#8 ++ low24 fmt.mask := by
  cases fmt <;> decide

theorem and_mask (cw : Word) (fmt : Format) :
    cw &&& fmt.mask = opcodeOf cw ++ (low24 cw &&& low24 fmt.mask) := by
  conv_lhs => rw [← word_of_format_dt (cw := cw) rfl, fmt.mask_eq, BitVec.and_append]
  rw [show (0xFF#8 : Byte) = BitVec.allOnes 8 from rfl, BitVec.and_allOnes]

theorem and_reserved (cw : Word) (fmt : Format) :
    cw &&& fmt.reserved = 0#8 ++ (low24 cw &&& low24 fmt.mask) := by
  conv_lhs => rw [← word_of_format_dt (cw := cw) rfl, fmt.reserved_eq, BitVec.and_append]
  rw [BitVec.and_zero]

/-- A word matches a row exactly when it has the row's opcode and no reserved bit of the row's format set. -/
theorem Row.matches_iff (row : Row) (cw : Word) :
    cw &&& row.format.mask = row.pattern ↔ row.opc = opcodeOf cw ∧ cw &&& row.format.reserved = 0 := by
  have hzero : (0 : Word) = 0#8 ++ 0#24 := rfl
  rw [and_mask, and_reserved, Row.pattern, hzero, append_inj_iff, append_inj_iff, eq_comm (a := row.opc)]
  simp only [true_and]

/-! ## Looking the opcode up (R70) -/

/-- No opcode stands in two rows (R68). -/
theorem opcodeTable_nodup : (opcodeTable.map Row.opc).Nodup := by decide

theorem find_row {row : Row} (h : row ∈ opcodeTable) :
    opcodeTable.find? (fun row' => row'.opc == row.opc) = some row := by
  have hsome : (opcodeTable.find? (fun row' => row'.opc == row.opc)).isSome = true :=
    List.find?_isSome.mpr ⟨row, h, beq_self_eq_true _⟩
  obtain ⟨row', hfind⟩ := Option.isSome_iff_exists.mp hsome
  have hopc : row'.opc = row.opc := by simpa using List.find?_some hfind
  rw [hfind, List.inj_on_of_nodup_map opcodeTable_nodup (List.mem_of_find?_eq_some hfind) h hopc]

theorem decode_of_row {row : Row} {cw : Word} (h : row ∈ opcodeTable) (ho : row.opc = opcodeOf cw)
    (hres : cw &&& row.format.reserved = 0) : decode cw = some (row.build cw) := by
  simp only [decode, ← ho, find_row h, hres, if_true]

/-- A word decodes to a command exactly when it matches a row of the table that builds the command from it. -/
theorem decode_eq_some_iff {cw : Word} {i : Instr} :
    decode cw = some i ↔ ∃ row, row ∈ opcodeTable ∧ cw &&& row.format.mask = row.pattern ∧ row.build cw = i := by
  constructor
  · intro h
    obtain ⟨row, hmem, ho, hres, hb⟩ := row_of_decode h
    exact ⟨row, hmem, (row.matches_iff cw).mpr ⟨ho, hres⟩, hb⟩
  · rintro ⟨row, hmem, hmatch, rfl⟩
    obtain ⟨ho, hres⟩ := (row.matches_iff cw).mp hmatch
    exact decode_of_row hmem ho hres

/-- The word of every command matches the command's row, whose fields give the command back. -/
theorem encode_tableRow (i : Instr) : Laws.TableRow.Statement i := by
  cases i with
  | getbit reg bit => exact Laws.TableRow.getbit reg bit
  | setbit reg bit => exact Laws.TableRow.setbit reg bit
  | clrbit reg bit => exact Laws.TableRow.clrbit reg bit
  | decode raw => exact Laws.TableRow.decode raw
  | setgain code => exact Laws.TableRow.setgain code
  | setrate code => exact Laws.TableRow.setrate code
  | setldo code => exact Laws.TableRow.setldo code
  | begin ldo gain rate => exact Laws.TableRow.begin ldo gain rate
  | calafe tmo => exact Laws.TableRow.calafe tmo
  | waitcal tmo => exact Laws.TableRow.waitcal tmo
  | calstat => exact Laws.TableRow.calstat
  | calzero n => exact Laws.TableRow.calzero n
  | avail => exact Laws.TableRow.avail
  | getrd => exact Laws.TableRow.getrd
  | getavg n => exact Laws.TableRow.getavg n
  | getled cl => exact Laws.TableRow.getled cl
  | scan => exact Laws.TableRow.scan
  | rdsr idx => exact Laws.TableRow.rdsr idx
  | rdstate => exact Laws.TableRow.rdstate
  | rdzoff => exact Laws.TableRow.rdzoff

/-- Settles O1: the word of a command matches the command's row, and a word decodes through the row it matches. -/
theorem decodeOfEncodeGivesTheCommand : Obligations.DecodeOfEncodeGivesTheCommand := fun i =>
  decode_eq_some_iff.mpr (encode_tableRow i)

/-- Settles O2: the reserved bits of a word that decodes are zero, and its fields side by side are the word. -/
theorem encodeOfDecodeGivesTheWord : Obligations.EncodeOfDecodeGivesTheWord := fun _ _ => encode_of_decode

/-- Settles O3: a word decodes through a row it matches, and every row it matches has the word's opcode. -/
theorem legalExactlyWhenOneTableRowMatches : Obligations.LegalExactlyWhenOneTableRowMatches := by
  intro cw
  refine ⟨⟨fun h => ?_, ?_⟩, fun r r' _ _ hr hr' => ?_⟩
  · obtain ⟨i, hi⟩ := Option.isSome_iff_exists.mp h
    obtain ⟨row, hmem, hmatch, -⟩ := decode_eq_some_iff.mp hi
    exact ⟨row, hmem, hmatch⟩
  · rintro ⟨row, hmem, hmatch⟩
    rw [decode_eq_some_iff.mpr ⟨row, hmem, hmatch, rfl⟩, Option.isSome_some]
  · exact ((r.matches_iff cw).mp hr).1.trans ((r'.matches_iff cw).mp hr').1.symm

end Sys2Proof
end

section
/-! The assembler (R75 to R77): what fits, every command's own source line, and the worked encodings. -/

namespace Sys2Proof

theorem assemble_isSome (cfg : Config) (a : Asm) : (assemble cfg a).isSome = a.wf := by
  unfold assemble
  cases a.wf <;> rfl

theorem assemble_of_wf {a : Asm} (cfg : Config) (h : a.wf = true) : assemble cfg a = some (a.command cfg) := if_pos h

/-! ## A field's own number fits it, and is read back (R67) -/

@[simp] theorem fitsUnsigned_toNat {w : Nat} (x : BitVec w) : fitsUnsigned w x.toNat = true := by
  have hlt : (x.toNat : Int) < 2 ^ w := by exact_mod_cast x.isLt
  simp [fitsUnsigned, hlt]

@[simp] theorem fitsSigned_toInt {w : Nat} (x : BitVec w) : fitsSigned w x.toInt = true :=
  decide_eq_true ⟨x.le_toInt, x.toInt_lt⟩

@[simp] theorem ofInt_natCast_toNat {w : Nat} (x : BitVec w) : BitVec.ofInt w x.toNat = x := by
  rw [BitVec.ofInt_natCast, BitVec.ofNat_toNat, BitVec.setWidth_eq]

/-- A command's operands have the widths of their fields, so as numbers they fit (R67). -/
theorem instr_wellFormed (i : Instr) : i.WellFormed := by
  cases i <;> simp [Instr.WellFormed, Instr.source, Asm.wf, BitOperand.wf, timeoutFits]

/-- A command's operands written out as numbers are read back, signed or unsigned as their fields are (R67). -/
theorem command_source (cfg : Config) (i : Instr) : i.source.command cfg = i := by
  cases i <;> simp [Instr.source, Asm.command, BitOperand.field, timeoutOperand]

/-- Settles O5: a line is refused exactly when it does not fit, and a command's own line fits and is read back. -/
theorem assemblerRefusesWhatDoesNotFit : Obligations.AssemblerRefusesWhatDoesNotFit := by
  intro cfg
  refine ⟨assemble_isSome cfg, fun i => ⟨instr_wellFormed i, ?_⟩, fun f => ⟨rfl, rfl, rfl⟩, rfl, rfl⟩
  rw [assemble_of_wf cfg (instr_wellFormed i), command_source]

/-- Settles O4: the worked lines and words are closed terms, which the assembler and the decoder evaluate. -/
theorem workedEncodingsDecode : Obligations.WorkedEncodingsDecode := by
  unfold Obligations.WorkedEncodingsDecode
  decide

end Sys2Proof
end

section
/-! An illegal word (R69, R171): accepted in one step, answered in the next, no register but `BUSY` touched. -/

namespace Sys2Proof.Machine

theorem step_of_illegal {s : State} {cw : Word} {rest : List Word} (hb : s.busy = false)
    (hs : s.scriptedReset = none) (hp : s.port = cw :: rest) (hd : decode cw = none) :
    step s = .next ((s.withPort rest).reject cw) := by
  simp only [step, stepOnce, hs, stepBlock, hb, Bool.false_eq_true, if_false, acceptNext, hp, hd]

/-- An illegal word whose response is due. -/
theorem step_of_respond_illegal {s : State} {r : Response} (hb : s.busy = true) (hs : s.scriptedReset = none)
    (hr : s.run = some (.respond none r)) : step s = .next (s.deliver r) := by
  simp only [step, stepOnce, hs, stepBlock, hb, if_true, continueRun, hr]

theorem sameRegs_reject (s : State) (cw : Word) : SameRegs s (s.reject cw) :=
  ⟨⟨rfl, rfl⟩, rfl, ⟨rfl, rfl⟩, ⟨rfl, rfl, rfl, rfl⟩, ⟨rfl, rfl, rfl, rfl⟩, rfl, rfl, rfl⟩

theorem SameRegs.deliver {s t : State} (h : SameRegs s t) (r : Response) : SameRegs s (t.deliver r) := h

/-- Settles O9: the word is rejected, and the response is delivered in the next step. -/
theorem illegalWordHasNoSideEffect : Obligations.IllegalWordHasNoSideEffect := by
  intro s cw rest hb hs hp hd
  exact ⟨_, _, step_of_illegal hb hs hp hd, step_of_respond_illegal rfl hs rfl, rfl, sameRegs_reject _ cw, rfl, rfl,
    rfl, (sameRegs_reject _ cw).deliver _, rfl, rfl⟩

end Sys2Proof.Machine
end

section
/-! Every command is answered with OK or with a cause of its own row (R165, R172), over a step. -/

namespace Sys2Proof.Machine

/-! ## Which causes stand in a row of R172's table -/

/-- Every command with an interaction of its own can end with a bus fault. -/
theorem busFault_mem_causesOf {r : Running} {i : Instr} (hi : r.instr = some i) (hn : ∀ j x, r ≠ .respond j x) :
    .busFault ∈ causesOf i := by
  cases r with
  | respond j x => exact absurd rfl (hn j x)
  | calafe tmo | waitcal tmo => cases hi; simp only [causesOf]; split <;> simp
  | _ => cases hi; simp [causesOf]

theorem waits_of_waiting {cfg : Config} {r : Running} {m : WaitAt} (h : r.waiting cfg = some m) :
    ∃ next, Waits cfg m.instr m.timeout m.back next := by
  cases r <;> try cases h
  case waitcal tmo p => exact ⟨_, .waitcal tmo⟩
  case calafe tmo p => cases p <;> cases h; exact ⟨_, .calafe tmo⟩
  case begin l g x p =>
    cases p <;> try cases h
    rename_i q
    cases q <;> cases h
    exact ⟨_, .begin l g x⟩

section
variable {cfg : Config} {i : Instr} {t : Int} {back : WaitPos → Running} {next : Running}

theorem calibrationFailure_mem_causesOf (h : Waits cfg i t back next) : .calibrationFailure ∈ causesOf i := by
  cases h with
  | waitcal tmo | calafe tmo => simp only [causesOf]; split <;> simp
  | begin => simp [causesOf]

/-- A wait that can time out has the timeout in its command's row (R114, R172). -/
theorem calibrationTimeout_mem_causesOf (h : Waits cfg i t back next) (ht : 0 < t) :
    .calibrationTimeout ∈ causesOf i := by
  cases h with
  | waitcal tmo | calafe tmo => simp [causesOf, ht]
  | begin => simp [causesOf]

end

theorem sampleTimeout_mem_causesOf {r : Running} {m : AverageAt} (h : r.averaging = some m) :
    .sampleTimeout ∈ causesOf m.instr := by
  cases r <;> cases h <;> simp [causesOf]

/-! ## Positions and their causes -/

/-- What `CauseInv` asks of a position. -/
def Running.InRow : Running → Prop
  | .scan (.abort c) => c = .busFault
  | .respond none r => r = failResponse .illegalCommand
  | .respond (some i) r => r.status = 0x00 ∨ ∃ c, c ∈ causesOf i ∧ r = failResponse c
  | _ => True

theorem causeInv_iff (s : State) : s.CauseInv ↔ ∀ r, s.busy = true → s.run = some r → r.InRow := by
  constructor
  · intro h r hb hr
    obtain ⟨habort, hnone, hsome⟩ := h hb
    cases r with
    | respond j x =>
      cases j with
      | none => exact hnone x hr
      | some i => exact hsome i x hr
    | scan p =>
      cases p with
      | abort c => exact habort c hr
      | _ => trivial
    | _ => trivial
  · exact fun h hb => ⟨fun _ => h _ hb, fun _ => h _ hb, fun _ _ => h _ hb⟩

theorem causeInv_of_idle {s : State} (hb : s.busy = false) : s.CauseInv := fun hb' => absurd hb' (by simp [hb])

theorem causeInv_of_run {s : State} {r : Running} (hr : s.run = some r) (h : r.InRow) : s.CauseInv :=
  (causeInv_iff s).mpr fun _ _ hr' => Option.some.inj (hr.symm.trans hr') ▸ h

theorem causeInv_goto (s : State) {r : Running} (h : r.InRow) : (s.goto r).CauseInv := causeInv_of_run rfl h

theorem inRow_ok (i : Instr) (v : Word) : (Running.respond (some i) (okResponse v)).InRow := .inl rfl

theorem inRow_fail {i : Instr} {c : Cause} (h : c ∈ causesOf i) :
    (Running.respond (some i) (failResponse c)).InRow := .inr ⟨c, h, rfl⟩

theorem causeInv_answer (s : State) (i : Instr) (v : Word) : (s.answer i v).CauseInv := causeInv_goto s (inRow_ok i v)

/-- A failure with a cause of the command's row, after the failure action of `SCAN` if a channel is lit (R152, R176). -/
theorem causeInv_raise (s : State) {i : Instr} {c : Cause} (h : c ∈ causesOf i) : (s.raise i c).CauseInv := by
  rcases raise_run s i c with hr | ⟨rfl, -, hr⟩
  · exact causeInv_of_run hr (inRow_fail h)
  · exact causeInv_of_run hr (List.mem_singleton.mp h)

/-! ## Positions in the shared procedures -/

/-- Inside a shared procedure no cause is reported yet, and after it the command goes on or answers with OK. -/
structure KeepsRow {π : Type} (back : π → Running) (rest : State → State) : Prop where
  back : ∀ p, (back p).InRow
  rest : ∀ u, ∃ r, (rest u).run = some r ∧ r.InRow

theorem KeepsRow.causeInv_rest {π : Type} {back : π → Running} {rest : State → State} (h : KeepsRow back rest)
    (u : State) : (rest u).CauseInv := by
  obtain ⟨r, hr, hrow⟩ := h.rest u
  exact causeInv_of_run hr hrow

theorem rmw_keepsRow {cfg : Config} {r : Running} {m : RmwAt} (h : r.rmw cfg = some m) :
    KeepsRow m.back m.rest := by
  cases r <;> try cases h
  case begin p =>
    cases p <;> try cases h
    case afe q =>
      cases q <;> cases h
      case start => exact ⟨fun _ => trivial, fun _ => ⟨_, rfl, trivial⟩⟩
      case convert => exact ⟨fun _ => trivial, fun _ => ⟨_, rfl, inRow_ok _ _⟩⟩
    all_goals exact ⟨fun _ => trivial, fun _ => ⟨_, rfl, trivial⟩⟩
  case calafe q =>
    cases q <;> cases h
    case start => exact ⟨fun _ => trivial, fun _ => ⟨_, rfl, trivial⟩⟩
    case convert => exact ⟨fun _ => trivial, fun _ => ⟨_, rfl, inRow_ok _ _⟩⟩
  all_goals exact ⟨fun _ => trivial, fun _ => ⟨_, rfl, inRow_ok _ _⟩⟩

theorem waiting_keepsRow {cfg : Config} {r : Running} {m : WaitAt} (h : r.waiting cfg = some m) :
    KeepsRow m.back m.rest := by
  cases r <;> try cases h
  case waitcal => exact ⟨fun _ => trivial, fun _ => ⟨_, rfl, inRow_ok _ _⟩⟩
  case begin p =>
    cases p <;> try cases h
    rename_i q
    cases q <;> cases h
    exact ⟨fun _ => trivial, fun _ => ⟨_, rfl, trivial⟩⟩
  case calafe q => cases q <;> cases h; exact ⟨fun _ => trivial, fun _ => ⟨_, rfl, trivial⟩⟩

theorem gettingReading_keepsRow {r : Running} {m : ReadingAt} (h : r.gettingReading = some m) (v : Word) :
    KeepsRow m.back (m.rest v) := by
  cases r <;> try cases h
  case scan p => cases p <;> cases h; exact ⟨fun _ => trivial, fun _ => ⟨_, rfl, trivial⟩⟩
  all_goals exact ⟨fun _ => trivial, fun _ => ⟨_, rfl, inRow_ok _ _⟩⟩

theorem averaging_keepsRow {r : Running} {m : AverageAt} (h : r.averaging = some m) (v : Word) :
    KeepsRow m.back (m.rest v) := by
  cases r <;> cases h <;> exact ⟨fun _ => trivial, fun _ => ⟨_, rfl, inRow_ok _ _⟩⟩

/-! ## Every step -/

/-- At its acceptance a command goes on, answers with OK, or refuses its count or its results (R136, R154). -/
theorem startOf_causeInv (i : Instr) (s : State) : (startOf i s).CauseInv := by
  cases i with
  | calzero n | getavg n =>
    cases hn : countFits s.cfg n <;> rw [startOf, hn]
    · exact causeInv_goto s (inRow_fail (by simp [causesOf]))
    · exact causeInv_goto s trivial
  | rdsr idx =>
    cases hv : s.srv <;> rw [startOf, hv]
    · exact causeInv_goto s (inRow_fail (by simp [causesOf]))
    · exact causeInv_answer _ _ _
  | decode | rdstate | rdzoff => exact causeInv_answer _ _ _
  | _ => exact causeInv_goto _ trivial

/-- Every step of a command keeps the causes in their rows. -/
theorem execStep_causeInv {i : Instr} {s t : State} (hi : ExecStep i s t) (h : s.CauseInv) : t.CauseInv := by
  cases hi with
  | accepted => exact startOf_causeInv _ _
  | respond => exact causeInv_of_idle rfl
  | other => exact h
  | rmwRead _ _ _ _ hv => exact causeInv_goto _ ((rmw_keepsRow hv).back _)
  | rmwWrite _ _ _ _ hv => exact (rmw_keepsRow hv).causeInv_rest _
  | rmwReadFault _ _ _ _ hv hi | rmwWriteFault _ _ _ _ hv hi =>
    exact causeInv_raise _ (busFault_mem_causesOf (hi ▸ rmw_instr hv) (rmw_ne_respond hv))
  | waitStamp _ _ _ _ hv | waitBusy _ _ _ _ hv | waitEnded _ _ _ _ hv | waitInTime _ _ _ _ hv
  | waitPause _ _ _ _ hv => exact causeInv_goto _ ((waiting_keepsRow hv).back _)
  | waitSuccess _ _ _ _ hv => exact (waiting_keepsRow hv).causeInv_rest _
  | waitStartFault _ _ _ _ hv hi | waitErrorFault _ _ _ _ hv hi =>
    exact causeInv_raise _ (busFault_mem_causesOf (hi ▸ waiting_instr hv) (waiting_ne_respond hv))
  | waitFailure _ _ _ _ hv hi =>
    obtain ⟨_, hw⟩ := waits_of_waiting hv
    exact causeInv_raise _ (hi ▸ calibrationFailure_mem_causesOf hw)
  | waitTimedOut _ _ _ _ hv hi _ ht =>
    obtain ⟨_, hw⟩ := waits_of_waiting hv
    exact causeInv_raise _ (hi ▸ calibrationTimeout_mem_causesOf hw ht)
  | pollReading _ _ _ _ hv | pauseReading _ _ _ _ hv => exact causeInv_goto _ ((gettingReading_keepsRow hv 0).back _)
  | sampleReading _ _ _ _ hv => exact (gettingReading_keepsRow hv _).causeInv_rest _
  | pollReadingFault _ _ _ _ hv hi | sampleReadingFault _ _ _ _ hv hi =>
    exact causeInv_raise _ (busFault_mem_causesOf (hi ▸ gettingReading_instr hv) (gettingReading_ne_respond hv))
  | averageStamp _ _ _ _ hv | averagePoll _ _ _ _ hv | averageMore _ _ _ _ hv | averageInTime _ _ _ _ hv
  | averagePause _ _ _ _ hv => exact causeInv_goto _ ((averaging_keepsRow hv 0).back _)
  | averageLast _ _ _ _ hv => exact (averaging_keepsRow hv _).causeInv_rest _
  | averagePollFault _ _ _ _ hv hi | averageSampleFault _ _ _ _ hv hi =>
    exact causeInv_raise _ (busFault_mem_causesOf (hi ▸ averaging_instr hv) (averaging_ne_respond hv))
  | averageTimedOut _ _ _ _ hv hi => exact causeInv_raise _ (hi ▸ sampleTimeout_mem_causesOf hv)
  | getbit | avail | calstatBusy | calstatResult | scanLast => exact causeInv_answer _ _ _
  | calstatEnded | beginHold | beginSettle | beginPowered | beginPollAgain | beginPause | beginChop | scanOn | scanSettle
  | scanOff => exact causeInv_goto _ trivial
  | getbitFault _ _ _ _ hi | availFault _ _ hi | calstatStartFault _ _ hi | calstatErrorFault _ _ hi
  | beginUnpowered _ _ _ _ _ hi | beginPollFault _ _ _ _ _ hi | beginChopFault _ _ _ _ _ hi =>
    exact causeInv_raise _ (by simp [hi, causesOf])
  | scanAbort hb c hr hi =>
    obtain rfl : c = .busFault := (causeInv_iff s).mp h _ hb hr
    subst hi
    exact causeInv_goto _ (inRow_fail (by simp [causesOf]))

/-- Settles O58: reset ends the command, an illegal word has its one cause, and a command raises only causes of its
row. -/
theorem stepKeepsTheCausesInTheirRows : Obligations.StepKeepsTheCausesInTheirRows := by
  intro s t h hst
  rcases step_cases hst with ⟨landed, -, rfl⟩ | ⟨-, hb, cw, rest, i, -, -, he⟩ | ⟨-, -, cw, rest, -, -, rfl⟩
    | ⟨-, -, r, i, -, -, he⟩ | ⟨-, -, r, -, rfl⟩ | ⟨-, -, rfl⟩
  · exact causeInv_of_idle rfl
  · exact execStep_causeInv (execStep_of_exec he) (causeInv_of_idle (s := s.withPort rest) hb)
  · exact causeInv_goto _ rfl
  · exact execStep_causeInv (execStep_of_exec he) h
  · exact causeInv_of_idle rfl
  · exact h

end Sys2Proof.Machine
end

section
/-! The register driver's arithmetic: the clamp, the masks of a bit and of a field, the sample decoder
(R48, R91 to R94). -/

namespace Sys2Proof.Machine

/-! ## The clamp (R93) -/

theorem clamp3_toNat (cfg : Config) (c : Byte) : (clamp3 cfg c).toNat = min c.toNat cfg.fieldMax.toNat := by
  simp only [clamp3, apply_ite BitVec.toNat, min_def, BitVec.le_def]

/-- Settles O16, from the clamp as a minimum. -/
theorem clampSaturatesAtSeven : Obligations.ClampSaturatesAtSeven := by
  intro cfg c hmax
  refine ⟨?_, by rw [clamp3_toNat, hmax]; rfl⟩
  simp only [clamp3, hmax, BitVec.le_def]
  rfl

/-! ## The masks (R48, R91, R92) -/

theorem getLsbD_bitMask (bit : BitVec 3) (j : Nat) : (1#8 <<< bit.toNat).getLsbD j = decide (j = bit.toNat) := by
  have hbit := bit.isLt
  rw [← BitVec.twoPow_eq, BitVec.getLsbD_twoPow]
  simp [hbit, eq_comm]

theorem getLsbD_fieldMask (lsb : BitVec 3) {j : Nat} (hj : j < 8) :
    (0b111#8 <<< lsb.toNat).getLsbD j = decide (lsb.toNat ≤ j ∧ j ≤ lsb.toNat + 2) := by
  have hones : 0b111#8 = (BitVec.allOnes 3).setWidth 8 := by decide
  rw [hones, BitVec.getLsbD_shiftLeft, BitVec.getLsbD_setWidth, BitVec.getLsbD_allOnes, Bool.eq_iff_iff]
  simp
  omega

/-- A 3-bit code has no bit above its lowest three. -/
theorem getLsbD_code {code : Byte} (h : code.toNat ≤ 7) {k : Nat} (hk : 3 ≤ k) : code.getLsbD k = false :=
  Nat.testBit_eq_false_of_lt (h.trans_lt (Nat.lt_of_lt_of_le (by decide) (Nat.pow_le_pow_right (by decide) hk)))

/-- The mask that clears is the complement of the mask that sets. -/
theorem ones_xor (m : Byte) : 0xFF#8 ^^^ m = ~~~m := BitVec.allOnes_xor

/-- Settles O17, from the bits of the two masks: a field's bits are those below, in and above its place. -/
theorem bitAndFieldMasksTouchOnlyTheirBits : Obligations.BitAndFieldMasksTouchOnlyTheirBits := by
  refine ⟨fun v bit j hj => ⟨?_, ?_⟩, fun v code lsb j hj hl hc => ?_⟩
  · rw [withBit, BitVec.getLsbD_or, getLsbD_bitMask, Bool.or_comm]
  · rw [withoutBit, ones_xor, BitVec.getLsbD_and, BitVec.getLsbD_not, getLsbD_bitMask, Bool.and_comm]
    simp [hj]
  · rw [withField, ones_xor, BitVec.getLsbD_or, BitVec.getLsbD_and, BitVec.getLsbD_not, getLsbD_fieldMask lsb hj,
      BitVec.getLsbD_shiftLeft]
    rcases lt_or_ge j lsb.toNat with hlow | hlow
    · simp [hj, hlow, Nat.not_le.mpr hlow]
    · by_cases hhigh : j ≤ lsb.toNat + 2
      · simp [hj, hlow, hhigh]
      · simp [hj, hhigh, getLsbD_code hc (show 3 ≤ j - lsb.toNat by omega)]

/-! ## The sample decoder (R94) -/

/-- A shift to the top of the word and an arithmetic shift back sign-extend. -/
theorem sshiftRight_shiftLeft_eq_signExtend (u : Raw) : ((u.zeroExtend 32) <<< 8).sshiftRight 8 = u.signExtend 32 := by
  ext j hj
  have hin : 8 + j < 32 ↔ j < 24 := by omega
  by_cases h : j < 24 <;>
    simp [BitVec.getElem_sshiftRight, BitVec.getElem_signExtend, BitVec.msb_eq_getLsbD_last, hin, h]

/-- Settles O18: stored at R8's sizes the three bytes are their 24-bit number sign-extended, whose value is in
a Sample's range. -/
theorem decodeSampleSignExtends : Obligations.DecodeSampleSignExtends := by
  intro cfg y0 y1 y2 hb hx u
  have hval : decodeSample cfg y0 y1 y2 = u.signExtend 32 := wordOf_sampleValue hb hx u
  have hint : (decodeSample cfg y0 y1 y2).toInt = u.toInt := by
    rw [hval, BitVec.toInt_signExtend_of_le (by decide)]
  have hcond := BitVec.toInt_eq_toNat_cond u
  have hlt := u.isLt
  refine ⟨hval, hval.trans (sshiftRight_shiftLeft_eq_signExtend u).symm, ?_, ?_, ?_⟩
  · simp only [u, toNat_side_by_side]
    omega
  · rw [hint, hcond]
    split <;> split <;> omega
  · rw [IsSample, hint, hcond]
    split <;> omega

end Sys2Proof.Machine
end

section
/-! The commands of the register driver from acceptance to response (R97 to R99, R101 to R103): one read, or one
read-modify-write, and what a fault makes of each. -/

namespace Sys2Proof.Machine

/-! ## What an interaction leaves unchanged -/

section
variable {s u : State}

theorem SameRegs.refl (s : State) : SameRegs s s :=
  ⟨⟨rfl, rfl⟩, rfl, ⟨rfl, rfl⟩, ⟨rfl, rfl, rfl, rfl⟩, ⟨rfl, rfl, rfl, rfl⟩, rfl, rfl, rfl⟩

theorem SameRegs.accept (h : SameRegs s u) (cw : Word) : SameRegs s (u.accept cw) := h
theorem SameRegs.goto (h : SameRegs s u) (r : Running) : SameRegs s (u.goto r) := h
theorem SameRegs.heard (h : SameRegs s u) (a : Byte) : SameRegs s (u.heard a) := h
theorem SameRegs.missed (h : SameRegs s u) (a : Byte) : SameRegs s (u.missed a) := h
theorem SameRegs.memWrite (h : SameRegs s u) (a v : Byte) : SameRegs s (memWrite a v u).2 := by
  simpa [SameRegs, SameCal, SameZoff, SameResults, SameScanWork, SamePollWork, SameOutside] using h

end

/-! ## Where a command stands that has only read -/

/-- Command `i`, accepted at `s`, stands at `u`, position `r`, after `n` interactions with the events `es`, none of them
a bus write; it has written no register. -/
structure Came (i : Instr) (s : State) (n : Nat) (es : List Event) (r : Running) (u : State) : Prop where
  ahead : Ahead s n u
  busy : u.busy = true
  run : u.run = some r
  same : SameRegs s u
  trace : u.trace = es ++ .accept (encode i) :: s.trace

section
variable {i : Instr} {s u : State} {n : Nat} {es : List Event} {r : Running}

theorem came_accepted (i : Instr) (s : State) (r : Running) : Came i s 0 [] r ((s.accept (encode i)).goto r) :=
  ⟨(Ahead.refl s).congr (fun _ => rfl) rfl rfl, rfl, rfl, ((SameRegs.refl s).accept _).goto r, rfl⟩

theorem Came.heard (h : Came i s n es r u) (a : Byte) (r' : Running) :
    Came i s (n + 1) (.rd s.cfg.devAddr a (some (s.byteAt n a)) :: es) r' ((u.heard a).goto r') where
  ahead := ((h.ahead.environ 0).log _).goto r'
  busy := h.busy
  run := rfl
  same := (h.same.heard a).goto r'
  trace := by simp [State.heard, h.ahead.cfg, h.ahead.byteAt, h.trace]

theorem Came.missed (h : Came i s n es r u) (a : Byte) (r' : Running) :
    Came i s (n + 1) (.rd s.cfg.devAddr a none :: es) r' ((u.missed a).goto r') where
  ahead := ((h.ahead.environ 0).log _).goto r'
  busy := h.busy
  run := rfl
  same := (h.same.missed a).goto r'
  trace := by simp [State.missed, h.ahead.cfg, h.trace]

/-- The response ends it. -/
theorem Came.respond {x : Response} (h : Came i s n es (.respond (some i) x) u) :
    ∃ t, exec i u = .next t ∧ t.busy = false ∧ SameRegs s t
      ∧ t.trace = .resp x :: es ++ .accept (encode i) :: s.trace ∧ t.dev = s.devAfter (n + 1) :=
  ⟨_, exec_respond i u x h.busy h.run, rfl, h.same.deliver x, by simp [h.trace], h.ahead.devAfter 1⟩

/-- A bus write and the response after it. -/
theorem Came.write (h : Came i s n es r u) (a v : Byte) (x : Response) :
    ∃ t, exec i ((memWrite a v u).2.goto (.respond (some i) x)) = .next t ∧ t.busy = false ∧ SameRegs s t
      ∧ t.trace = .resp x :: .wr s.cfg.devAddr a v u.writeOk :: es ++ .accept (encode i) :: s.trace
      ∧ t.dev = Memory.writeAll (Memory.write (s.devAfter (n + 1)) a (u.writtenByte v)) (s.moveAt (n + 1)).changes := by
  refine ⟨_, exec_respond i _ x (by simp [h.busy]) rfl, rfl, ((h.same.memWrite a v).goto _).deliver x,
    by simp [h.trace, h.ahead.cfg], ?_⟩
  show Memory.writeAll (Memory.write (u.devAfter 1) a _) ((memWrite a v u).2.moveAt 0).changes = _
  rw [h.ahead.devAfter, moveAt_memWrite, h.ahead.moves, Nat.zero_add]

end

/-! ## The commands -/

/-- Settles O12: the one read answers with the bit, or faults. -/
theorem getbitReadsOneBit : Obligations.GetbitReadsOneBit := by
  intro s reg bit hb
  obtain ⟨u, hacc, h⟩ : ∃ u, exec (.getbit reg bit) s = .next u
      ∧ Came (.getbit reg bit) s 0 [] (.getbit reg bit) u :=
    ⟨_, getbit_accepted s reg bit hb, came_accepted ..⟩
  have hmove : u.moveAt 0 = s.moveAt 0 := h.ahead.moves 0
  refine ⟨rfl, u, ?_⟩
  cases hm : (s.moveAt 0).busFault with
  | none =>
    have hread := exec_of_execStep (.getbit h.busy reg bit h.run rfl (by rw [State.fine, hmove, hm]))
    rw [h.ahead.bitAt] at hread
    obtain ⟨t, hend, hbusy, hsame, htrace, hdev⟩ := (h.heard reg _).respond
    exact ⟨_, t, hacc, hread, hend, hbusy, hsame, hdev, fun _ => htrace, nofun⟩
  | some b =>
    have hread := exec_of_execStep (.getbitFault h.busy reg bit h.run rfl (by rw [State.bad, hmove, hm]; rfl))
    obtain ⟨t, hend, hbusy, hsame, htrace, hdev⟩ := (h.missed reg _).respond
    exact ⟨_, t, hacc, hread, hend, hbusy, hsame, hdev, nofun, fun _ => htrace⟩

/-- A command that is one read-modify-write answered with `result`, and that has no failure action. -/
theorem rmwCourse {i : Instr} {reg : Byte} {change : Byte → Byte} {result : Word} {s : State}
    {back : RmwPos → Running} {rest : State → State}
    (hacc : exec i s = .next ((s.accept (encode i)).goto (back .read)))
    (hrmw : ∀ p, (back p).rmw s.cfg = some ⟨i, p, reg, change, back, rest⟩)
    (hrest : ∀ u : State, u.cfg = s.cfg → rest u = u.goto (.respond (some i) (okResponse result)))
    (hraise : ∀ (u : State) (c : Cause), u.raise i c = u.goto (.respond (some i) (failResponse c))) :
    RmwCourse i reg change result s := by
  obtain ⟨u1, hacc, h1⟩ : ∃ u, exec i s = .next u ∧ Came i s 0 [] (back .read) u := ⟨_, hacc, came_accepted ..⟩
  have hrmw1 := h1.ahead.cfg ▸ hrmw .read
  have hmove1 : u1.moveAt 0 = s.moveAt 0 := h1.ahead.moves 0
  have hread (h0 : (s.moveAt 0).busFault = none) : ∃ u, exec i u1 = .next u
      ∧ Came i s 1 [.rd s.cfg.devAddr reg (some (s.byteAt 0 reg))] (back (.write (change (s.byteAt 0 reg)))) u := by
    have hx := exec_of_execStep (.rmwRead h1.busy _ h1.run _ hrmw1 rfl rfl (by rw [State.fine, hmove1, h0]))
    rw [h1.ahead.byteAt] at hx
    exact ⟨_, hx, h1.heard reg _⟩
  refine ⟨fun h0 hw => ?_, fun b h0 hw => ?_, fun b h0 => ?_⟩
  · obtain ⟨u2, hread, h2⟩ := hread h0
    have hmove2 : u2.moveAt 0 = s.moveAt 1 := h2.ahead.moves 0
    have hx := exec_of_execStep (.rmwWrite h2.busy _ h2.run _ (h2.ahead.cfg ▸ hrmw _) rfl _ rfl
      (by rw [State.fine, hmove2, hw]))
    obtain ⟨t, hend, hbusy, hsame, htrace, hdev⟩ := h2.write reg (change (s.byteAt 0 reg)) (okResponse result)
    rw [← hrest (memWrite reg _ u2).2 h2.ahead.cfg] at hend
    rw [State.writeOk, nextMove_eq, hmove2, hw] at htrace
    rw [State.writtenByte, nextMove_eq, hmove2, hw] at hdev
    exact ⟨u1, u2, _, t, hacc, hread, hx, hend, hbusy, hsame, htrace, hdev⟩
  · obtain ⟨u2, hread, h2⟩ := hread h0
    have hmove2 : u2.moveAt 0 = s.moveAt 1 := h2.ahead.moves 0
    have hx := exec_of_execStep (.rmwWriteFault h2.busy _ h2.run _ (h2.ahead.cfg ▸ hrmw _) rfl _ rfl
      (by rw [State.bad, hmove2, hw]; rfl))
    obtain ⟨t, hend, hbusy, hsame, htrace, hdev⟩ := h2.write reg (change (s.byteAt 0 reg)) (failResponse .busFault)
    rw [← hraise] at hend
    rw [State.writeOk, nextMove_eq, hmove2, hw] at htrace
    rw [State.writtenByte, nextMove_eq, hmove2, hw] at hdev
    exact ⟨u1, u2, _, t, hacc, hread, hx, hend, hbusy, hsame, htrace, hdev⟩
  · have hx := exec_of_execStep (.rmwReadFault h1.busy _ h1.run _ hrmw1 rfl rfl (by rw [State.bad, hmove1, h0]; rfl))
    rw [hraise] at hx
    obtain ⟨t, hend, hbusy, hsame, htrace, hdev⟩ := (h1.missed reg _).respond
    exact ⟨u1, _, t, hacc, hx, hend, hbusy, hsame, htrace, hdev⟩

/-- Settles O13: `SETBIT` is the read-modify-write that sets the bit. -/
theorem setbitWritesTheByteWithTheBitSet : Obligations.SetbitWritesTheByteWithTheBitSet := fun s reg bit hb =>
  ⟨rfl, rmwCourse (setbit_accepted s reg bit hb) (fun _ => rfl) (fun _ _ => rfl) fun _ _ => rfl⟩

/-- Settles O14: `CLRBIT` is the read-modify-write that clears the bit. -/
theorem clrbitWritesTheByteWithTheBitCleared : Obligations.ClrbitWritesTheByteWithTheBitCleared := by
  intro s reg bit hb
  have hmask : (fun v : Byte => v &&& ~~~(1#8 <<< bit.toNat)) = withoutBit bit := by
    funext v
    rw [withoutBit, ones_xor]
  rw [hmask]
  exact ⟨rfl, rmwCourse (clrbit_accepted s reg bit hb) (fun _ => rfl) (fun _ _ => rfl) fun _ _ => rfl⟩

/-- Settles O15: each is the read-modify-write of its field, answered with the clamped code. -/
theorem fieldCommandsWriteTheClampedCode : Obligations.FieldCommandsWriteTheClampedCode := by
  intro s code hb
  have hcode (i : Instr) (u : State) (h : u.cfg = s.cfg) :
      u.answer i (codeWord u.cfg code) = u.goto (.respond (some i) (okResponse (codeWord s.cfg code))) := by
    rw [h]; rfl
  exact ⟨rfl, rfl, rfl, rmwCourse (setgain_accepted s code hb) (fun _ => rfl) (hcode _) fun _ _ => rfl,
    rmwCourse (setrate_accepted s code hb) (fun _ => rfl) (hcode _) fun _ _ => rfl,
    rmwCourse (setldo_accepted s code hb) (fun _ => rfl) (hcode _) fun _ _ => rfl⟩

end Sys2Proof.Machine
end

section
/-! The frame of every command (the "State written" line of its rule): the polling working registers (R29, R112, R114,
R139), the port and the channels over a step, and with them every register a command does not write. -/

namespace Sys2Proof.Machine

/-! ## What a step writes of the polling working registers -/

/-- What a step of command `i` writes of `ACC`, `K`, `T0` and `ITER`: nothing; in `BEGIN` the count of power-up polls
(R112); in a wait the start time (R114); in a mean the sum, its count and the start time (R139). -/
inductive PollWrote (i : Instr) (s t : State) : Prop where
  | nothing (ht : SamePollWork s t)
  | polls (l g x : Byte) (hi : i = .begin l g x) (ht : t.acc = s.acc ∧ t.k = s.k)
  | startTime (time : Int) (back : WaitPos → Running) (next : Running) (hi : Waits s.cfg i time back next)
      (ht : t.acc = s.acc ∧ t.k = s.k ∧ t.iter = s.iter)
  | mean (n : BitVec 16) (back : AvgPos → Running) (hi : Averages n i back) (ht : t.iter = s.iter)

theorem averages_of_averaging {r : Running} {m : AverageAt} (h : r.averaging = some m) :
    Averages m.count m.instr m.back := by
  cases r <;> cases h
  · exact .calzero
  · exact .getavg

theorem samePollWork_startOf (i : Instr) (s : State) : SamePollWork s (startOf i s) := by
  rcases startOf_cases i s with ⟨r, he⟩ | ⟨l, g, x, -, he⟩ | ⟨-, he⟩ <;> rw [he] <;> exact ⟨rfl, rfl, rfl, rfl⟩

theorem execStep_pollWrote {i : Instr} {s t : State} (h : ExecStep i s t) : PollWrote i s t := by
  cases h with
  | accepted => exact .nothing (samePollWork_startOf i (s.accept _))
  | rmwWrite _ _ _ _ hv hi =>
    rcases rmw_rest_cases hv (memWrite _ _ s).2 with ⟨r', he⟩ | ⟨⟨l, g, x, hb⟩, ⟨r', he⟩ | ⟨c, r', he⟩⟩ <;> rw [he]
    · exact .nothing (by simp [SamePollWork])
    · exact .polls l g x (hi.symm.trans hb) (by simp)
    · exact .nothing (by simp [SamePollWork])
  | waitSuccess _ _ _ _ hv =>
    obtain ⟨r', he⟩ := waiting_rest_eq_goto hv (s.heard s.cfg.regMap.fCalerr.reg)
    rw [he]
    exact .nothing (by simp [SamePollWork, State.heard])
  | sampleReading _ _ _ _ hv =>
    refine .nothing ?_
    rcases gettingReading_rest_cases hv (s.sampleAt 0) (readSample s).2 with ⟨r', he⟩ | ⟨-, x, he⟩ <;>
      rw [he] <;> simp [SamePollWork]
  | waitStamp _ _ _ m hv hi =>
    obtain ⟨next, hw⟩ := waits_of_waiting hv
    exact .startTime _ _ next (hi ▸ hw) (by simp)
  | averageStamp _ _ _ m hv hi | averageMore _ _ _ m hv hi => exact .mean _ _ (hi ▸ averages_of_averaging hv) (by simp)
  | averageLast _ _ _ m hv hi =>
    refine .mean _ _ (hi ▸ averages_of_averaging hv) ?_
    rcases averaging_rest_cases hv _ _ with he | ⟨n, -, -, -, he⟩ <;> rw [he] <;> simp
  | beginPowered _ l g x _ hi | beginPollAgain _ l g x _ hi | beginUnpowered _ l g x _ hi =>
    exact .polls l g x hi (by simp [State.heard])
  | _ => exact .nothing (by simp [SamePollWork, State.missed, State.heard])

/-! ## What a step writes, register by register -/

theorem switches_of_ne_scan {i : Instr} {s : State} (hb : s.busy = true) (h : s.Runs i) (hi : i ≠ .scan) :
    s.switches = none := by
  obtain ⟨r, hr, hri⟩ := h
  rw [switches_eq hb hr]
  cases r with
  | scan p => exact absurd (Option.some.inj hri).symm hi
  | _ => rfl

section
variable {i : Instr} {s t : State} (h : exec i s = .next t)
include h

/-- The port, and but for `SCAN` the channels, are left alone. -/
theorem exec_port_led : t.port = s.port ∧ (i ≠ .scan → t.led = s.led) := by
  rcases exec_cases h with hb | ⟨-, r, -, rfl⟩ | ⟨hb, r, hr, hri, hn⟩ | ⟨-, rfl, -⟩
  · rw [exec_accepted i s hb] at h
    cases h
    obtain ⟨-, hport, -, -, hled⟩ := (atPorts_eq_iff _ _).mp (startOf_atPorts i (s.accept (encode i)))
    exact ⟨hport, fun _ => hled⟩
  · exact ⟨rfl, fun _ => rfl⟩
  · have hx : ∀ x, s.run ≠ some (.respond (some i) x) := fun x hx => hn _ x (Option.some.inj (hr.symm.trans hx))
    have hacts := execStep_actsIn (execStep_of_exec h) hb ⟨r, hr, hri⟩ hx
    refine ⟨hacts.port, fun hi => ?_⟩
    obtain ⟨⟨u, hu, ht⟩, -⟩ := hacts
    obtain ⟨-, -, -, -, hled⟩ := (atPorts_eq_iff _ _).mp ht
    exact hled.trans (hu.led_of_no_switch (switches_of_ne_scan hb ⟨r, hr, hri⟩ hi))
  · exact ⟨rfl, fun _ => rfl⟩

theorem exec_sameOutside (hi : i ≠ .scan) : SameOutside s t :=
  ⟨execStep_cfg (execStep_of_exec h), (exec_port_led h).1, (exec_port_led h).2 hi⟩

theorem exec_sameZoff (hi : ∀ n, i ≠ .calzero n) : SameZoff s t := by
  rcases onlyCalzeroWritesTheZeroOffset i s t h with hz | ⟨n, hc, -⟩
  · exact hz
  · exact absurd hc (hi n)

theorem exec_sameResults (hi : i ≠ .scan) : SameResults s t := by
  rcases onlyTheLastStepOfScanWritesResults i s t h with hr | ⟨hs, -⟩
  · exact hr
  · exact absurd hs hi

theorem exec_sameCal (hi : ∀ l g x, i ≠ .begin l g x) : SameCal s t := execStep_sameCal (execStep_of_exec h) hi

theorem exec_sameScanWork (hi : i ≠ .scan) : SameScanWork s t := execStep_sameScanWork (execStep_of_exec h) hi

theorem exec_sameIter (hi : ∀ l g x, i ≠ .begin l g x) : t.iter = s.iter := by
  cases execStep_pollWrote (execStep_of_exec h) with
  | nothing ht => exact ht.2.2.2
  | polls l g x hb => exact absurd hb (hi l g x)
  | startTime _ _ _ _ ht => exact ht.2.2
  | mean _ _ _ ht => exact ht

theorem exec_sameSum (hz : ∀ n, i ≠ .calzero n) (ha : ∀ n, i ≠ .getavg n) : t.acc = s.acc ∧ t.k = s.k := by
  cases execStep_pollWrote (execStep_of_exec h) with
  | nothing ht => exact ⟨ht.1, ht.2.1⟩
  | polls _ _ _ _ ht => exact ht
  | startTime _ _ _ _ ht => exact ⟨ht.1, ht.2.1⟩
  | mean n _ hi =>
    cases hi with
    | getavg => exact absurd rfl (ha n)
    | calzero => exact absurd rfl (hz n)

end

/-! ## Every command -/

/-- The commands that work with a polling working register (R29). -/
def usesPollWork : Instr → Bool
  | .begin _ _ _ | .calafe _ | .waitcal _ | .calzero _ | .getavg _ => true
  | _ => false

theorem exec_samePollWork {i : Instr} {s t : State} (h : exec i s = .next t) (hi : usesPollWork i = false) :
    SamePollWork s t := by
  cases execStep_pollWrote (execStep_of_exec h) with
  | nothing ht => exact ht
  | polls _ _ _ hb => subst hb; cases hi
  | startTime _ _ _ hw => cases hw <;> cases hi
  | mean _ _ ha => cases ha <;> cases hi

/-- Settles O49: register by register, a step writes only what the State written line of its command's rule names. -/
theorem eachCommandWritesOnlyItsRegisters : Obligations.EachCommandWritesOnlyItsRegisters := by
  intro i s t h
  refine ⟨execStep_cfg (execStep_of_exec h), (exec_port_led h).1, ?_⟩
  cases i with
  | begin =>
    have hsum := exec_sameSum h nofun nofun
    exact ⟨exec_sameZoff h nofun, exec_sameResults h nofun, exec_sameScanWork h nofun, exec_sameOutside h nofun, hsum⟩
  | calafe | waitcal =>
    have hsum := exec_sameSum h nofun nofun
    exact ⟨exec_sameCal h nofun, exec_sameZoff h nofun, exec_sameResults h nofun, exec_sameScanWork h nofun,
      exec_sameOutside h nofun, hsum.1, hsum.2, exec_sameIter h nofun⟩
  | getavg =>
    exact ⟨exec_sameCal h nofun, exec_sameZoff h nofun, exec_sameResults h nofun, exec_sameScanWork h nofun,
      exec_sameOutside h nofun, exec_sameIter h nofun⟩
  | calzero =>
    exact ⟨exec_sameCal h nofun, exec_sameResults h nofun, exec_sameScanWork h nofun, exec_sameOutside h nofun,
      exec_sameIter h nofun⟩
  | scan => exact ⟨exec_sameCal h nofun, exec_sameZoff h nofun, exec_samePollWork h rfl⟩
  | _ =>
    exact ⟨exec_sameCal h nofun, exec_sameZoff h nofun, exec_sameResults h nofun, exec_sameScanWork h nofun,
      exec_samePollWork h rfl, exec_sameOutside h nofun⟩

end Sys2Proof.Machine
end

section
/-! The shortest successful `BEGIN` (R111, R112, R115, R116, R118): its actions one after the other, none of which
faults, phase by phase. -/

namespace Sys2Proof.Machine

/-! ## Actions in a row -/

/-- Command `i`, accepted at `s`, has done the actions `acts` and stands at `u`, position `r`. The next `k` moves bring
no bus fault; `FCAUSE` is as at acceptance, and `ITER` is `n`. -/
structure Reached (i : Instr) (s : State) (acts : List Act) (k : Nat) (r : Running) (n : BitVec 7) (u : State) :
    Prop where
  runs : execN i (s.play acts).count (startOf i (s.accept (encode i))) = .next u
  stands : Stands s (.accept (encode i) :: s.trace) (s.play acts) u
  busy : u.busy = true
  run : u.run = some r
  fine : u.NoFault k
  cause : u.fcause = (startOf i (s.accept (encode i))).fcause
  iter : u.iter = n

theorem stands_startOf (i : Instr) (s : State) :
    Stands s (.accept (encode i) :: s.trace) (s.play []) (startOf i (s.accept (encode i))) := by
  obtain ⟨hout, hdev, hnow⟩ := startOf_outside i (s.accept (encode i))
  obtain ⟨hcfg, htrace, hscript, htick⟩ := (outside_eq_iff _ _).mp hout
  exact (stands_accept s (encode i)).congr (moveAt_congr _ _ hscript htick) hnow hdev htrace hcfg

theorem reached_startOf {i : Instr} {s : State} {k : Nat} {r : Running} (hf : s.NoFault k)
    (hr : (startOf i (s.accept (encode i))).run = some r) :
    Reached i s [] k r s.iter (startOf i (s.accept (encode i))) where
  runs := rfl
  stands := stands_startOf i s
  busy := ((atPorts_eq_iff _ _).mp (startOf_atPorts i _)).1
  run := hr
  fine j hj := by simpa [(stands_startOf i s).moves j] using hf j hj
  cause := rfl
  iter := (samePollWork_startOf i _).2.2.2

/-- What follows a read-modify-write is no interaction, and leaves `BUSY` and `FCAUSE` alone. -/
theorem rmw_rest_keeps {cfg : Config} {r : Running} {m : RmwAt} (hv : r.rmw cfg = some m) (u : State) :
    (∀ j, (m.rest u).moveAt j = u.moveAt j) ∧ (m.rest u).now = u.now ∧ (m.rest u).dev = u.dev
      ∧ (m.rest u).trace = u.trace ∧ (m.rest u).cfg = u.cfg ∧ (m.rest u).busy = u.busy
      ∧ (m.rest u).fcause = u.fcause := by
  rcases rmw_rest_cases hv u with ⟨r', he⟩ | ⟨-, ⟨r', he⟩ | ⟨c, r', he⟩⟩ <;> rw [he] <;>
    exact ⟨fun _ => rfl, rfl, rfl, rfl, rfl, rfl, rfl⟩

/-- A read-modify-write between its read and its write. -/
def State.modifying (u : State) (reg : Byte) (change : Byte → Byte) (back : RmwPos → Running) : State :=
  (u.heard reg).goto (back (.write (change (u.byteAt 0 reg))))

/-- What a read-modify-write leaves. -/
def State.modified (u : State) (reg : Byte) (change : Byte → Byte) (back : RmwPos → Running) : State :=
  (memWrite reg (change (u.byteAt 0 reg)) (u.modifying reg change back)).2

section
variable (u : State) (reg : Byte) (change : Byte → Byte) (back : RmwPos → Running)

theorem modifying_moveAt (j : Nat) : (u.modifying reg change back).moveAt j = u.moveAt (j + 1) := moveAt_environ u 0 j

theorem modified_moveAt (j : Nat) : (u.modified reg change back).moveAt j = u.moveAt (j + 2) := by
  rw [State.modified, moveAt_memWrite, modifying_moveAt]

theorem modified_keeps : (u.modified reg change back).busy = u.busy ∧ (u.modified reg change back).fcause = u.fcause
    ∧ (u.modified reg change back).iter = u.iter := by simp [State.modified, State.modifying, State.heard]

end

section
variable {i : Instr} {s u v : State} {acts : List Act} {k : Nat} {r r' : Running} {n n' : BitVec 7}

/-- One action that is one interaction. -/
theorem Reached.step (h : Reached i s acts (k + 1) r n u) {a : Act} (he : exec i u = .next v)
    (hs : Stands s (.accept (encode i) :: s.trace) ((s.play acts).act s a) v)
    (hc : ((s.play acts).act s a).count = (s.play acts).count + 1 := by rfl) (hb : v.busy = u.busy := by rfl)
    (hr : v.run = some r' := by rfl) (hf : v.fcause = u.fcause := by rfl) (hn : v.iter = n') :
    ∃ v, Reached i s (acts ++ [a]) k r' n' v := by
  refine ⟨v, ?_, by rwa [play_snoc], hb.trans h.busy, hr, fun j hj => ?_, hf.trans h.cause, hn⟩
  · rw [play_snoc, hc, execN_add h.runs, execN_step he, execN]
  · rw [hs.moves, hc, Nat.add_assoc, Nat.add_comm 1 j, ← h.stands.moves]
    exact h.fine (j + 1) (by omega)

/-- One read-modify-write. -/
theorem Reached.modify {reg : Byte} {change : Byte → Byte} {back : RmwPos → Running} {rest : State → State}
    (h : Reached i s acts (k + 2) (back .read) n u)
    (hv : ∀ p, (back p).rmw s.cfg = some ⟨i, p, reg, change, back, rest⟩)
    (hrest : ∀ v : State, v.iter = n → (rest v).run = some r' ∧ (rest v).iter = n') :
    ∃ w, Reached i s (acts ++ [.modify reg change]) k r' n' (rest w) := by
  have h0 : u.fine := h.fine 0 (by omega)
  have h1 : (u.modifying reg change back).fine := (congrArg _ (modifying_moveAt ..)).trans (h.fine 1 (by omega))
  have hread := exec_of_execStep (.rmwRead h.busy _ h.run _ (h.stands.cfg ▸ hv .read) rfl rfl h0)
  have hwrite := exec_of_execStep (.rmwWrite (s := u.modifying reg change back) h.busy _ rfl _ (h.stands.cfg ▸ hv _)
    rfl _ rfl h1)
  have hs := h.stands.modify reg change h1 (back (.write (change (u.byteAt 0 reg))))
  rw [← play_snoc] at hs
  obtain ⟨hbw, hfw, hnw⟩ := modified_keeps u reg change back
  obtain ⟨hm, hnow, hdev, htrace, hcfg, hb, hf⟩ := rmw_rest_keeps (hv .read) (u.modified reg change back)
  obtain ⟨hr, hn⟩ := hrest _ (hnw.trans h.iter)
  refine ⟨u.modified reg change back, ?_, hs.congr hm hnow hdev htrace hcfg, (hb.trans hbw).trans h.busy, hr,
    fun j hj => ?_, (hf.trans hfw).trans h.cause, hn⟩
  · rw [play_snoc]
    exact (execN_add h.runs 2).trans ((execN_step hread 1).trans (execN_step hwrite 0))
  · rw [hm, modified_moveAt]
    exact h.fine (j + 2) (by omega)

/-- The response. -/
theorem Reached.reply {x : Response} (h : Reached i s acts k (.respond (some i) x) n u) (hb : s.busy = false) :
    Performs i (acts ++ [.reply x]) s (u.deliver x) := by
  have hs := h.stands.reply x
  rw [← play_snoc] at hs
  refine ⟨_, exec_accepted i s hb, ?_, rfl, hs.trace, hs.dev, hs.now⟩
  rw [play_snoc]
  exact (execN_add h.runs 1).trans (execN_step (exec_respond i u x h.busy h.run) 0)

end

/-! ## The phases of `BEGIN` -/

section
variable {s u : State} {l g x : Byte} {acts : List Act} {k : Nat} {n : BitVec 7}

/-- `ResetDevice` (R111). -/
theorem reached_resetDevice (h : Reached (.begin l g x) s acts (k + 6) (.begin l g x (.resetSet .read)) n u) :
    ∃ v, Reached (.begin l g x) s (acts ++ [Act.set s.cfg.regMap.fReset, Act.wait s.cfg.resetSettleMs,
      Act.clear s.cfg.regMap.fReset, Act.wait s.cfg.resetSettleMs]) k (.begin l g x (.pud .read)) n v := by
  obtain ⟨_, h1⟩ := h.modify (back := (.begin l g x <| .resetSet ·)) (fun _ => rfl) fun _ hn => ⟨rfl, hn⟩
  have e2 := exec_of_execStep (.beginHold h1.busy l g x h1.run rfl)
  rw [h1.stands.cfg] at e2
  obtain ⟨_, h2⟩ := h1.step e2 ((h1.stands.wait _).goto _) (hn := h1.iter)
  obtain ⟨_, h3⟩ := h2.modify (back := (.begin l g x <| .resetClear ·)) (fun _ => rfl) fun _ hn => ⟨rfl, hn⟩
  have e4 := exec_of_execStep (.beginSettle h3.busy l g x h3.run rfl)
  rw [h3.stands.cfg] at e4
  obtain ⟨_, h4⟩ := h3.step e4 ((h3.stands.wait _).congr (fun _ => rfl) rfl rfl rfl rfl) (hn := h3.iter)
  exact ⟨_, by simpa [Act.set, Act.clear] using h4⟩

/-- `PowerUp` whose first poll reads 1 (R112). -/
theorem reached_powerUp (h : Reached (.begin l g x) s acts (k + 5) (.begin l g x (.pud .read)) n u)
    (hp : s.sees (acts ++ [Act.set s.cfg.regMap.fPud, Act.set s.cfg.regMap.fPua]) s.cfg.regMap.fPur = true) :
    ∃ v, Reached (.begin l g x) s (acts ++ [Act.set s.cfg.regMap.fPud, Act.set s.cfg.regMap.fPua,
      Act.get s.cfg.regMap.fPur]) k (.begin l g x (.ldo .read)) 1 v := by
  obtain ⟨_, h1⟩ := h.modify (back := (.begin l g x <| .pud ·)) (fun _ => rfl) fun _ hn => ⟨rfl, hn⟩
  obtain ⟨_, h2⟩ := h1.modify (back := (.begin l g x <| .pua ·)) (fun _ => rfl) fun _ hn => ⟨rfl, rfl⟩
  have hbit := h2.stands.bitAt_zero s.cfg.regMap.fPur
  have e3 := exec_of_execStep (.beginPowered h2.busy l g x h2.run rfl (h2.fine 0 (by omega)) (by
    rw [h2.stands.cfg, hbit]; simpa [Act.set] using hp))
  rw [h2.stands.cfg] at e3
  obtain ⟨_, h3⟩ := h2.step e3 ((h2.stands.look _).congr (fun _ => rfl) rfl rfl rfl rfl) (hb := by simp [State.heard])
    (hf := by simp [State.heard]) (hn := congrArg (· + 1) h2.iter)
  exact ⟨_, by simpa [Act.set, Act.get] using h3⟩

/-- `ConfigureAnalog` (R116). -/
theorem reached_configureAnalog (h : Reached (.begin l g x) s acts (k + 9) (.begin l g x (.ldo .read)) n u) :
    ∃ v, Reached (.begin l g x) s (acts ++ [Act.field s.cfg s.cfg.regMap.fldLdo l,
      Act.field s.cfg s.cfg.regMap.fldGain g, Act.field s.cfg s.cfg.regMap.fldRate x,
      Act.store s.cfg.regMap.regChop s.cfg.regMap.chopValue, Act.set s.cfg.regMap.fPgacap]) k
      (.begin l g x (.afe (.start .read))) n v := by
  obtain ⟨_, h1⟩ := h.modify (back := (.begin l g x <| .ldo ·)) (fun _ => rfl) fun _ hn => ⟨rfl, hn⟩
  obtain ⟨_, h2⟩ := h1.modify (back := (.begin l g x <| .gain ·)) (fun _ => rfl) fun _ hn => ⟨rfl, hn⟩
  obtain ⟨_, h3⟩ := h2.modify (back := (.begin l g x <| .rate ·)) (fun _ => rfl) fun _ hn => ⟨rfl, hn⟩
  have e4 := exec_of_execStep (.beginChop h3.busy l g x h3.run rfl (h3.fine 0 (by omega)))
  rw [h3.stands.cfg] at e4
  obtain ⟨_, h4⟩ := h3.step e4 ((h3.stands.store _ _ (h3.fine 0 (by omega))).goto _) (hn := h3.iter)
  obtain ⟨_, h5⟩ := h4.modify (back := (.begin l g x <| .pgacap ·)) (fun _ => rfl) fun _ hn => ⟨rfl, hn⟩
  exact ⟨_, by simpa [Act.set, Act.field] using h5⟩

/-- `CalibrateAFE` whose first status poll finds the calibration ended in success (R114, R115). -/
theorem reached_calibrateAfe (h : Reached (.begin l g x) s acts (k + 7) (.begin l g x (.afe (.start .read))) n u)
    (hbusy : s.sees (acts ++ [Act.set s.cfg.regMap.fCals, Act.time]) s.cfg.regMap.fCals = false)
    (herr : s.sees (acts ++ [Act.set s.cfg.regMap.fCals, Act.time, Act.get s.cfg.regMap.fCals])
      s.cfg.regMap.fCalerr = false) :
    ∃ v, Reached (.begin l g x) s (acts ++ [Act.set s.cfg.regMap.fCals, Act.time, Act.get s.cfg.regMap.fCals,
      Act.get s.cfg.regMap.fCalerr, Act.set s.cfg.regMap.fCs]) k (.respond (some (.begin l g x)) (okResponse 0)) n v
      ∧ v.calState = calReady := by
  obtain ⟨_, h1⟩ := h.modify (back := (.begin l g x <| .afe <| .start ·)) (fun _ => rfl) fun _ hn => ⟨rfl, hn⟩
  obtain ⟨_, h2⟩ := h1.step (exec_of_execStep (.waitStamp h1.busy _ h1.run _ rfl rfl rfl))
    (h1.stands.time.congr (fun _ => rfl) rfl rfl rfl rfl) (hn := h1.iter)
  have e3 := exec_of_execStep (.waitEnded h2.busy _ h2.run _ rfl rfl rfl (h2.fine 0 (by omega)) (by
    rw [h2.stands.cfg, h2.stands.bitAt_zero]; simpa [Act.set] using hbusy))
  rw [h2.stands.cfg] at e3
  obtain ⟨_, h3⟩ := h2.step e3 ((h2.stands.look _).goto _) (hn := h2.iter)
  have e4 := exec_of_execStep (.waitSuccess h3.busy _ h3.run _ rfl rfl rfl (h3.fine 0 (by omega)) (by
    rw [h3.stands.cfg, h3.stands.bitAt_zero]; simpa [Act.set, Act.get] using herr))
  rw [h3.stands.cfg] at e4
  obtain ⟨_, h4⟩ := h3.step e4 ((h3.stands.look _).goto _) (hn := h3.iter)
  obtain ⟨_, h5⟩ := h4.modify (back := (.begin l g x <| .afe <| .convert ·)) (fun _ => rfl) fun _ hn => ⟨rfl, hn⟩
  exact ⟨_, by simpa [Act.set, Act.get] using h5, rfl⟩

end

/-! ## The whole run -/

/-- The registers `BEGIN` leaves alone: all but `CAL_STATE`, `FCAUSE`, `T0` and `ITER` (R110, R118). -/
def SameButBegin (s t : State) : Prop :=
  SameZoff s t ∧ SameResults s t ∧ SameScanWork s t ∧ SameOutside s t ∧ t.acc = s.acc ∧ t.k = s.k

theorem SameButBegin.trans {s t u : State} (h : SameButBegin s t) (h' : SameButBegin t u) : SameButBegin s u := by
  simp_all [SameButBegin, SameZoff, SameResults, SameScanWork, SameOutside]

section
variable {l g x : Byte} {s t : State}

theorem exec_sameButBegin (h : exec (.begin l g x) s = .next t) : SameButBegin s t :=
  (eachCommandWritesOnlyItsRegisters _ s t h).2.2

theorem execN_sameButBegin {m : Nat} (h : execN (.begin l g x) m s = .next t) : SameButBegin s t := by
  induction m generalizing s with
  | zero =>
    cases h
    simp [SameButBegin, SameZoff, SameResults, SameScanWork, SameOutside]
  | succ m ih =>
    obtain ⟨u, hu⟩ := exec_next (.begin l g x) s
    rw [execN_step hu] at h
    exact (exec_sameButBegin hu).trans (ih h)

theorem Performs.sameButBegin {acts : List Act} (h : Performs (.begin l g x) acts s t) : SameButBegin s t := by
  obtain ⟨u, hu, hrun, -⟩ := h
  exact (exec_sameButBegin hu).trans (execN_sameButBegin hrun)

end

/-- Up to its response, phase by phase. -/
theorem reached_beginActs {s : State} {l g x : Byte} (hf : s.NoFault 27)
    (hpur : s.sees ((beginActs s.cfg l g x).take 6) s.cfg.regMap.fPur = true)
    (hcals : s.sees ((beginActs s.cfg l g x).take 14) s.cfg.regMap.fCals = false)
    (hcalerr : s.sees ((beginActs s.cfg l g x).take 15) s.cfg.regMap.fCalerr = false) :
    ∃ v, Reached (.begin l g x) s ((beginActs s.cfg l g x).take 17) 0
      (.respond (some (.begin l g x)) (okResponse 0)) 1 v ∧ v.calState = calReady := by
  obtain ⟨_, h1⟩ := reached_resetDevice (k := 21) (reached_startOf hf rfl)
  obtain ⟨_, h2⟩ := reached_powerUp (k := 16) h1 hpur
  obtain ⟨_, h3⟩ := reached_configureAnalog (k := 7) h2
  exact reached_calibrateAfe (k := 0) h3 hcals hcalerr

/-- Settles O20: the four phases in order, then the response. -/
theorem beginShortestRunEndsReady : Obligations.BeginShortestRunEndsReady := by
  intro s l g x hb hf acts hpur hcals hcalerr
  refine ⟨⟨_, exec_accepted _ s hb, rfl, rfl⟩, ?_⟩
  obtain ⟨v, hv, hcal⟩ := reached_beginActs hf hpur hcals hcalerr
  have hp : Performs (.begin l g x) acts s (v.deliver (okResponse 0)) := hv.reply hb
  obtain ⟨hzoff, hresults, hwork, hout, hacc, hk⟩ := hp.sameButBegin
  exact ⟨_, hp, hcal, hv.cause, hzoff, hresults, hwork, hout, hacc, hk, hv.iter, rfl, rfl, rfl⟩

end Sys2Proof.Machine
end

section
/-! What a shared procedure of calibration or sampling does at each of its positions (R114, R138, R139), said once for
all the commands that call it. -/

namespace Sys2Proof.Machine

/-! ## `WaitCal` in its three commands (R114, R115, R118, R120) -/

theorem Waits.waiting {cfg : Config} {i : Instr} {t : Int} {pos : WaitPos → Running} {success : Running}
    (h : Waits cfg i t pos success) (p : WaitPos) : (pos p).waiting cfg = some ⟨i, p, t, pos, (·.goto success)⟩ := by
  cases h <;> rfl

section
variable {s : State} {i : Instr} {t : Int} {pos : WaitPos → Running} {success : Running}
  (h : Waits s.cfg i t pos success) (hb : s.busy = true)
include h hb

theorem Waits.stamp (hr : s.run = some (pos .stamp)) :
    exec i s = .next ((readNow s).stamp.goto (pos (.stat .startBit))) :=
  exec_of_execStep (.waitStamp hb _ hr _ (h.waiting _) rfl rfl)

theorem Waits.inProgress (hr : s.run = some (pos (.stat .startBit))) (hf : s.fine)
    (hc : s.bitAt 0 s.cfg.regMap.fCals = true) :
    exec i s = .next ((s.heard s.cfg.regMap.fCals.reg).goto (pos (if 0 < t then .clock else .pause))) :=
  exec_of_execStep (.waitBusy hb _ hr _ (h.waiting _) rfl rfl hf hc)

theorem Waits.ended (hr : s.run = some (pos (.stat .startBit))) (hf : s.fine)
    (hc : s.bitAt 0 s.cfg.regMap.fCals = false) :
    exec i s = .next ((s.heard s.cfg.regMap.fCals.reg).goto (pos (.stat .errorBit))) :=
  exec_of_execStep (.waitEnded hb _ hr _ (h.waiting _) rfl rfl hf hc)

theorem Waits.succeeded (hr : s.run = some (pos (.stat .errorBit))) (hf : s.fine)
    (hc : s.bitAt 0 s.cfg.regMap.fCalerr = false) :
    exec i s = .next ((s.heard s.cfg.regMap.fCalerr.reg).goto success) :=
  exec_of_execStep (.waitSuccess hb _ hr _ (h.waiting _) rfl rfl hf hc)

theorem Waits.failed (hr : s.run = some (pos (.stat .errorBit))) (hf : s.fine)
    (hc : s.bitAt 0 s.cfg.regMap.fCalerr = true) :
    exec i s = .next ((s.heard s.cfg.regMap.fCalerr.reg).raise i .calibrationFailure) :=
  exec_of_execStep (.waitFailure hb _ hr _ (h.waiting _) rfl rfl hf hc)

theorem Waits.timedOut (hr : s.run = some (pos .clock)) (ht : 0 < t)
    (he : t < (elapsedSince s.t0 (s.environ 0).now).toNat) :
    exec i s = .next ((readNow s).raise i .calibrationTimeout) :=
  exec_of_execStep (.waitTimedOut hb _ hr _ (h.waiting _) rfl rfl ht he)

theorem Waits.inTime (hr : s.run = some (pos .clock)) (he : (elapsedSince s.t0 (s.environ 0).now).toNat ≤ t) :
    exec i s = .next ((readNow s).goto (pos .pause)) :=
  exec_of_execStep (.waitInTime hb _ hr _ (h.waiting _) rfl rfl fun hlt => absurd hlt.2 (not_lt.mpr he))

theorem Waits.pause (hr : s.run = some (pos .pause)) :
    exec i s = .next ((delay s.cfg.calPollMs s).goto (pos (.stat .startBit))) :=
  exec_of_execStep (.waitPause hb _ hr _ (h.waiting _) rfl rfl)

end

/-! ## The polls of `GetReading` (R138) -/

theorem Reads.gettingReading {i : Instr} {pos : ReadPos → Running} (h : Reads i pos) (p : ReadPos) :
    ∃ rest, (pos p).gettingReading = some ⟨i, p, pos, rest⟩ := by
  cases h <;> exact ⟨_, rfl⟩

section
variable {s : State} {i : Instr} {pos : ReadPos → Running} (h : Reads i pos) (hb : s.busy = true)
include h hb

theorem Reads.notReady (hr : s.run = some (pos .poll)) (hf : s.fine) (hc : s.bitAt 0 s.cfg.regMap.fCr = false) :
    exec i s = .next ((s.heard s.cfg.regMap.fCr.reg).goto (pos .pause)) := by
  obtain ⟨rest, hv⟩ := h.gettingReading .poll
  rw [exec_of_execStep (.pollReading hb _ hr _ hv rfl rfl hf), hc]
  rfl

theorem Reads.pause (hr : s.run = some (pos .pause)) :
    exec i s = .next ((delay s.cfg.rdPollMs s).goto (pos .poll)) := by
  obtain ⟨rest, hv⟩ := h.gettingReading .pause
  exact exec_of_execStep (.pauseReading hb _ hr _ hv rfl rfl)

end

/-! ## `Average` in its two commands (R122, R139, R143) -/

/-- What a command does with its mean before it answers: `CALZERO` stores it in `ZOFF` (R122). -/
def State.takeMean (s : State) (i : Instr) (v : Word) : State :=
  match i with
  | .calzero _ => s.setZoff v
  | _ => s

@[simp] theorem takeMean_acc (s : State) (i : Instr) (v : Word) : (s.takeMean i v).acc = s.acc := by cases i <;> rfl
@[simp] theorem takeMean_k (s : State) (i : Instr) (v : Word) : (s.takeMean i v).k = s.k := by cases i <;> rfl

theorem Averages.averaging {n : BitVec 16} {i : Instr} {pos : AvgPos → Running} (h : Averages n i pos) (p : AvgPos) :
    (pos p).averaging = some ⟨i, n, p, pos, fun v u => (u.takeMean i v).answer i v⟩ := by
  cases h <;> rfl

theorem Averages.takeMean_zoff {n : BitVec 16} {i : Instr} {pos : AvgPos → Running} (h : Averages n i pos)
    (s : State) (v : Word) : (s.takeMean i v).zoff = if i = .calzero n then v else s.zoff := by
  cases h <;> simp [State.takeMean]

section
variable {s : State} {n : BitVec 16} {i : Instr} {pos : AvgPos → Running} (h : Averages n i pos) (hb : s.busy = true)
include h hb

theorem Averages.stamp (hr : s.run = some (pos .stamp)) :
    exec i s = .next ((readNow s).stamp.clearSum.goto (pos .poll)) :=
  exec_of_execStep (.averageStamp hb _ hr _ (h.averaging _) rfl rfl)

theorem Averages.poll (hr : s.run = some (pos .poll)) (hf : s.fine) :
    exec i s = .next
      ((s.heard s.cfg.regMap.fCr.reg).goto (pos (if s.bitAt 0 s.cfg.regMap.fCr then .sample else .clock))) :=
  exec_of_execStep (.averagePoll hb _ hr _ (h.averaging _) rfl rfl hf)

theorem Averages.last (hr : s.run = some (pos .sample)) (hf : s.fine) (hk : s.k + 1 = n) :
    exec i s = .next
      ((((readSample s).2.addSample (s.sampleAt 0)).takeMean i (meanOf s.cfg (accumulate s.acc (s.sampleAt 0)) n)).answer
        i (meanOf s.cfg (accumulate s.acc (s.sampleAt 0)) n)) :=
  exec_of_execStep (.averageLast hb _ hr _ (h.averaging _) rfl rfl hf hk)

theorem Averages.more (hr : s.run = some (pos .sample)) (hf : s.fine) (hk : s.k + 1 ≠ n) :
    exec i s = .next (((readSample s).2.addSample (s.sampleAt 0)).goto (pos .clock)) :=
  exec_of_execStep (.averageMore hb _ hr _ (h.averaging _) rfl rfl hf hk)

theorem Averages.timedOut (hr : s.run = some (pos .clock))
    (he : s.cfg.avgBudgetMs < elapsedSince s.t0 (s.environ 0).now) :
    exec i s = .next ((readNow s).raise i .sampleTimeout) :=
  exec_of_execStep (.averageTimedOut hb _ hr _ (h.averaging _) rfl rfl he)

theorem Averages.inTime (hr : s.run = some (pos .clock))
    (he : ¬ s.cfg.avgBudgetMs < elapsedSince s.t0 (s.environ 0).now) :
    exec i s = .next ((readNow s).goto (pos .pause)) :=
  exec_of_execStep (.averageInTime hb _ hr _ (h.averaging _) rfl rfl he)

theorem Averages.pause (hr : s.run = some (pos .pause)) :
    exec i s = .next ((delay s.cfg.avgPollMs s).goto (pos .poll)) :=
  exec_of_execStep (.averagePause hb _ hr _ (h.averaging _) rfl rfl)

end

end Sys2Proof.Machine
end

section
/-! Single positions of `BEGIN`, `WaitCal` and `Average` (R112, R114, R118, R139): what each step leads to, the failures
among them. -/

namespace Sys2Proof.Machine

/-- A failure of a command without a failure action, or of `BEGIN` (R118, R176). -/
theorem failedWith_raise {i : Instr} {s u : State} (c : Cause) (hi : i ≠ .scan) (hu : SameCal s u) :
    FailedWith i c s (u.raise i c) := by
  refine ⟨raise_run_of_unlit fun hs => hi hs.1, ?_, fun hn => ?_⟩
  · rintro ⟨l, g, x, rfl⟩
    exact ⟨rfl, rfl⟩
  · exact ⟨(raise_calState u i c hn).trans hu.1, (raise_fcause u i c hn).trans hu.2⟩

/-- Settles O26: each position of `WaitCal`, for the three commands at once. -/
theorem waitcalTimeTestIsStrictAndAfterTheStatus : Obligations.WaitcalTimeTestIsStrictAndAfterTheStatus := by
  intro s i t pos success h hb
  have hi : i ≠ .scan := by cases h <;> exact nofun
  refine ⟨fun hr => ?_, fun hr hf => ?_, fun hr hf => ?_, fun hr ht => ?_, fun hr => ?_⟩
  · exact ⟨_, h.stamp hb hr, rfl, rfl, rfl⟩
  · cases hc : s.bitAt 0 s.cfg.regMap.fCals with
    | false => exact ⟨_, h.ended hb hr hf hc, rfl⟩
    | true => exact ⟨_, h.inProgress hb hr hf hc, congrArg some (apply_ite pos ..)⟩
  · cases hc : s.bitAt 0 s.cfg.regMap.fCalerr with
    | false => exact ⟨_, h.succeeded hb hr hf hc, fun _ => rfl, nofun⟩
    | true => exact ⟨_, h.failed hb hr hf hc, nofun, fun _ => failedWith_raise _ hi ⟨rfl, rfl⟩⟩
  · by_cases he : t < (elapsedSince s.t0 (s.environ 0).now).toNat
    · exact ⟨_, h.timedOut hb hr ht he, raise_trace .., fun _ => failedWith_raise _ hi ⟨rfl, rfl⟩,
        fun hle => absurd he (not_lt.mpr hle)⟩
    · exact ⟨_, h.inTime hb hr (not_lt.mp he), rfl, fun hlt => absurd hlt he, fun _ => rfl⟩
  · exact ⟨_, h.pause hb hr, rfl, rfl⟩

/-- Settles O35: each position of `Average`, for the two commands at once. -/
theorem averageTestsTheCountBeforeTheTime : Obligations.AverageTestsTheCountBeforeTheTime := by
  intro s n i pos h hb
  have hi : i ≠ .scan := by cases h <;> exact nofun
  refine ⟨fun hr => ?_, fun hr hf => ?_, fun hr hf => ?_, fun hr => ?_, fun hr => ?_⟩
  · exact ⟨_, h.stamp hb hr, rfl, rfl, by simp, by simp, rfl, by simp [SameZoff]⟩
  · exact ⟨_, h.poll hb hr hf, by simp [SameZoff, State.heard], congrArg some (apply_ite pos ..)⟩
  · by_cases hk : s.k + 1 = n
    · refine ⟨_, h.last hb hr hf hk, by simp, by simp [accumulate], fun _ => ⟨by simp [okResponse, okCode], ?_⟩,
        fun hne => absurd hk hne⟩
      rw [answer_zoff, h.takeMean_zoff]
      simp
    · exact ⟨_, h.more hb hr hf hk, by simp, by simp [accumulate], fun hk' => absurd hk' hk,
        fun _ => ⟨rfl, by simp [SameZoff]⟩⟩
  · by_cases he : s.cfg.avgBudgetMs < elapsedSince s.t0 (s.environ 0).now
    · exact ⟨_, h.timedOut hb hr he, raise_trace .., raise_zoff .., fun _ => failedWith_raise _ hi ⟨rfl, rfl⟩,
        fun hle => absurd he (BitVec.not_lt.mpr hle)⟩
    · exact ⟨_, h.inTime hb hr he, rfl, by simp [SameZoff], fun hlt => absurd hlt he, fun _ => rfl⟩
  · exact ⟨_, h.pause hb hr, rfl, rfl, by simp [SameZoff]⟩

/-- Settles O22: the three outcomes of a power-up poll. -/
theorem powerUpPollsAreCounted : Obligations.PowerUpPollsAreCounted := by
  intro s l g x hb hr hf
  cases hp : s.bitAt 0 s.cfg.regMap.fPur with
  | true => exact ⟨_, exec_of_execStep (.beginPowered hb l g x hr rfl hf hp), rfl, fun _ => ⟨rfl, rfl, rfl⟩, nofun, nofun⟩
  | false =>
    by_cases hk : s.iter + 1 = s.cfg.puPollMax
    · exact ⟨_, exec_of_execStep (.beginUnpowered hb l g x hr rfl hf hp hk), rfl, nofun, fun _ _ => ⟨rfl, rfl, rfl⟩,
        fun _ hne => absurd hk hne⟩
    · exact ⟨_, exec_of_execStep (.beginPollAgain hb l g x hr rfl hf hp hk), rfl, nofun, fun _ he => absurd he hk,
        fun _ _ => ⟨rfl, rfl, _, exec_of_execStep (.beginPause (by exact hb) l g x rfl rfl), rfl, rfl, rfl⟩⟩

end Sys2Proof.Machine
end

section
/-! How a step of `BEGIN` ends it (R118, R176), and the whole of `CALSTAT` (R113, R121). -/

namespace Sys2Proof.Machine

/-! ## The end of `BEGIN` (R118) -/

/-- Where a step of `BEGIN` leads: it goes on, it has ended Ready and answers OK, or it has failed with a cause of its
row. -/
inductive BeginOutcome (l g x : Byte) (s t : State) : Prop
  | on (q : BeginPos) (hr : t.run = some (.begin l g x q))
  | ready (u : State) (hf : u.fcause = s.fcause) (ht : t = (setCalState calReady u).answer (.begin l g x) 0)
  | failed (u : State) (c : Cause) (hc : c ∈ causesOf (.begin l g x)) (ht : t = u.raise (.begin l g x) c)

section
variable {s t u : State} {l g x : Byte} {p : BeginPos}

theorem beginOutcome_rmw_rest {cfg : Config} {m : RmwAt} (hv : (Running.begin l g x p).rmw cfg = some m)
    (hu : u.fcause = s.fcause) : BeginOutcome l g x s (m.rest u) := by
  cases p <;> try cases hv
  case afe q =>
    cases q <;> cases hv
    · exact .on _ rfl
    · exact .ready u hu rfl
  all_goals exact .on _ rfl

variable (hb : s.busy = true) (hr : s.run = some (.begin l g x p)) (h : exec (.begin l g x) s = .next t)
include hb hr h

theorem beginOutcome_rmw {m : RmwAt} (hv : (Running.begin l g x p).rmw s.cfg = some m) : BeginOutcome l g x s t := by
  have hi : m.instr = .begin l g x := (Option.some.inj (rmw_instr hv)).symm
  rw [← hi, exec_rmw s _ m hb hr hv, hi] at h
  generalize hx : readModifyWrite _ _ _ _ = y at h
  rcases readModifyWrite_cases hx with ⟨-, -, rfl⟩ | ⟨-, -, rfl⟩ | ⟨v, -, -, -, rfl⟩ | ⟨v, -, -, -, rfl⟩ <;> cases h
  · obtain ⟨q, hq, -⟩ := rmw_back_of_begin hv (.write (m.change (s.byteAt 0 m.reg)))
    exact .on q (congrArg some hq)
  · exact .failed _ .busFault (by simp [causesOf]) rfl
  · exact beginOutcome_rmw_rest hv rfl
  · exact .failed _ .busFault (by simp [causesOf]) rfl

theorem beginOutcome_wait {q : WaitPos} (hp : p = .afe (.wait q)) : BeginOutcome l g x s t := by
  subst hp
  have hw := Waits.begin (cfg := s.cfg) l g x
  rw [exec_waiting s _ _ hb hr (hw.waiting q)] at h
  generalize hx : waitCal _ _ _ = y at h
  rcases waitCal_cases hx with ⟨-, rfl⟩ | ⟨-, -, rfl⟩ | ⟨-, -, rfl⟩ | ⟨-, -, -, rfl⟩ | ⟨-, -, -, rfl⟩ | ⟨-, -, rfl⟩
    | ⟨-, -, -, rfl⟩ | ⟨-, -, rfl⟩ | ⟨-, rfl⟩ <;> cases h
  · exact .on _ rfl
  · exact .on _ rfl
  · exact .failed _ .busFault (by simp [causesOf]) rfl
  · exact .failed _ .calibrationFailure (by simp [causesOf]) rfl
  · exact .on _ rfl
  · exact .failed _ .busFault (by simp [causesOf]) rfl
  · exact .failed _ .calibrationTimeout (by simp [causesOf]) rfl
  · exact .on _ rfl
  · exact .on _ rfl

theorem exec_beginOutcome : BeginOutcome l g x s t := by
  cases p
  case resetHold => rw [begin_resetHold s l g x hb hr] at h; cases h; exact .on _ rfl
  case resetSettle => rw [begin_resetSettle s l g x hb hr] at h; cases h; exact .on _ rfl
  case purPause => rw [begin_purPause s l g x hb hr] at h; cases h; exact .on _ rfl
  case purPoll =>
    rw [begin_purPoll s l g x hb hr] at h
    generalize hx : powerUpPoll _ = y at h
    rcases powerUpPoll_cases hx with ⟨-, -, rfl⟩ | ⟨-, -, -, rfl⟩ | ⟨-, -, -, rfl⟩ | ⟨-, rfl⟩ <;> cases h
    · exact .on _ rfl
    · exact .failed _ .powerUpTimeout (by simp [causesOf]) rfl
    · exact .on _ rfl
    · exact .failed _ .busFault (by simp [causesOf]) rfl
  case chop =>
    rw [begin_chop s l g x hb hr] at h
    cases h
    split
    · exact .on _ rfl
    · exact .failed _ .busFault (by simp [causesOf]) rfl
  case afe q =>
    cases q
    case wait => exact beginOutcome_wait hb hr h rfl
    all_goals exact beginOutcome_rmw hb hr h rfl
  all_goals exact beginOutcome_rmw hb hr h rfl

end

/-- Settles O21: the end of `BEGIN` is Ready, or the failure action with its cause; a fault on the bus raises
`BusFault`; only a bus write stores to the device. -/
theorem beginFailureIsRecorded : Obligations.BeginFailureIsRecorded := by
  intro s t l g x p hb hr h
  have hruns : s.Runs (.begin l g x) := ⟨_, hr, rfl⟩
  refine ⟨fun j r htr => ?_, fun e es hf htrace he => ?_, fun hst => ?_⟩
  · cases exec_beginOutcome hb hr h with
    | on q hq => cases htr.symm.trans hq
    | ready u hu ht => subst ht; cases htr; exact ⟨rfl, .inl ⟨rfl, rfl, hu⟩⟩
    | failed u c hc ht => subst ht; cases htr; exact ⟨rfl, .inr ⟨c, hc, rfl, rfl, rfl⟩⟩
  · rcases execStep_of_bad (execStep_of_exec h) hb hruns hf with ⟨u, rfl, -⟩ | ⟨e', htrace', he'⟩
    · rfl
    · obtain rfl : e = e' := (List.cons.inj (htrace.symm.trans htrace')).1
      simp [he'] at he
  · obtain ⟨⟨u, hu, ht⟩, -⟩ := execStep_actsIn (execStep_of_exec h) hb hruns (by simp [hr])
    obtain ⟨-, -, -, hdev, -⟩ := (atPorts_eq_iff u t).mp ht
    exact hdev.trans (hu.dev_of_no_store (Option.map_eq_none_iff.mp hst))

/-! ## `CALSTAT` (R113, R121) -/

/-- Settles O24: the start bit, and only when it is clear the error bit; a fault of either read ends the command. -/
theorem calstatAnswersTheStatus : Obligations.CalstatAnswersTheStatus := by
  intro s hb cals calerr
  obtain ⟨u, hacc, h⟩ : ∃ u, exec .calstat s = .next u ∧ Came .calstat s 0 [] (.calstat .startBit) u :=
    ⟨_, calstat_accepted s hb, came_accepted ..⟩
  have hmove : u.moveAt 0 = s.moveAt 0 := h.ahead.moves 0
  have hbit : u.bitAt 0 u.cfg.regMap.fCals = s.bitAt 0 cals := by rw [h.ahead.cfg, h.ahead.bitAt]
  have hended (hf : (s.moveAt 0).busFault = none) (hc : s.bitAt 0 cals = false) : ∃ v, exec .calstat u = .next v
      ∧ Came .calstat s 1 [.rd s.cfg.devAddr cals.reg (some (s.byteAt 0 cals.reg))] (.calstat .errorBit) v := by
    have hx := exec_of_execStep (.calstatEnded h.busy h.run rfl (by rw [State.fine, hmove, hf]) (hbit.trans hc))
    rw [h.ahead.cfg] at hx
    exact ⟨_, hx, h.heard cals.reg _⟩
  refine ⟨by decide, fun hf hc => ?_, fun hf hc hf1 => ?_, fun hf => ?_, fun hf hc hf1 => ?_⟩
  · have hx := exec_of_execStep (.calstatBusy h.busy h.run rfl (by rw [State.fine, hmove, hf]) (hbit.trans hc))
    rw [h.ahead.cfg] at hx
    obtain ⟨t, hend, hbusy, hsame, htrace, hdev⟩ := (h.heard cals.reg _).respond
    exact ⟨u, t, hacc, (execN_step hx 1).trans (execN_step hend 0), hbusy, hsame, hdev, htrace⟩
  · obtain ⟨v, hx, hv⟩ := hended hf hc
    have hx1 := exec_of_execStep (.calstatResult hv.busy hv.run rfl (by rw [State.fine, hv.ahead.moves, hf1]))
    rw [hv.ahead.cfg, hv.ahead.bitAt] at hx1
    obtain ⟨t, hend, hbusy, hsame, htrace, hdev⟩ := (hv.heard calerr.reg _).respond
    refine ⟨u, t, hacc, (execN_step hx 2).trans ((execN_step hx1 1).trans (execN_step hend 0)), hbusy, hsame, hdev, ?_⟩
    rw [htrace]
    cases s.bitAt 1 calerr <;> rfl
  · have hx := exec_of_execStep (.calstatStartFault h.busy h.run rfl (by rw [State.bad, hmove, hf]))
    rw [h.ahead.cfg] at hx
    obtain ⟨t, hend, hbusy, hsame, htrace, -⟩ := (h.missed cals.reg _).respond
    exact ⟨u, t, hacc, (execN_step hx 1).trans (execN_step hend 0), hbusy, hsame, htrace⟩
  · obtain ⟨v, hx, hv⟩ := hended hf hc
    have hx1 := exec_of_execStep (.calstatErrorFault hv.busy hv.run rfl (by rw [State.bad, hv.ahead.moves, hf1]))
    rw [hv.ahead.cfg] at hx1
    obtain ⟨t, hend, hbusy, hsame, htrace, -⟩ := (hv.missed calerr.reg _).respond
    exact ⟨u, t, hacc, (execN_step hx 2).trans ((execN_step hx1 1).trans (execN_step hend 0)), hbusy, hsame, htrace⟩

end Sys2Proof.Machine
end

section
/-! The unbounded waits (R114, R138, R194, U2): a poll, a delay and again, as long as the device's bit does not come. -/

namespace Sys2Proof.Machine

/-- A command stands at `u`, position `p`, `n` moves after `s`, the device's registers changed by the device alone; it
has written no register and answered nothing. -/
structure Hanging (s : State) (n : Nat) (p : Running) (u : State) : Prop where
  ahead : Ahead s n u
  busy : u.busy = true
  run : u.run = some p
  same : SameRegs s u
  silent : ∀ r, Event.resp r ∈ u.trace → Event.resp r ∈ s.trace

theorem hanging_start {s : State} {p : Running} (hb : s.busy = true) (hr : s.run = some p) : Hanging s 0 p s :=
  ⟨Ahead.refl s, hb, hr, SameRegs.refl s, fun _ => id⟩

theorem hanging_accepted (s : State) (i : Instr) (p : Running) :
    Hanging s 0 p ((s.accept (encode i)).goto p) where
  ahead := (Ahead.refl s).congr (fun _ => rfl) rfl rfl
  busy := rfl
  run := rfl
  same := ((SameRegs.refl s).accept _).goto p
  silent := by simp

section
variable {s u : State} {n : Nat} {p : Running} (h : Hanging s n p u)
include h

theorem Hanging.heard (a : Byte) (q : Running) : Hanging s (n + 1) q ((u.heard a).goto q) where
  ahead := ((h.ahead.environ 0).log _).goto q
  busy := h.busy
  run := rfl
  same := (h.same.heard a).goto q
  silent := by simpa [State.heard] using h.silent

theorem Hanging.delay (k : Word) (q : Running) : Hanging s (n + 1) q ((delay k u).goto q) where
  ahead := ((h.ahead.environ k).log _).goto q
  busy := h.busy
  run := rfl
  same := h.same
  silent := by simpa using h.silent

end

/-- The interactions of the next `m` polls, every second one from now on, do not fault, and the polls find the bit `b`. -/
def State.PollsFind (s : State) (m : Nat) (f : BitField) (b : Bool) : Prop :=
  ∀ j, j < m → (s.moveAt (2 * j)).busFault = none ∧ s.bitAt (2 * j) f = b

/-- Position `p` of command `i` is a poll of `f` which, when it finds `b`, is followed by a delay and the same poll. -/
structure PollLoop (cfg : Config) (i : Instr) (p q : Running) (f : BitField) (b : Bool) (k : Word) : Prop where
  poll : ∀ u : State, u.cfg = cfg → u.busy = true → u.run = some p → u.fine → u.bitAt 0 f = b →
    exec i u = .next ((u.heard f.reg).goto q)
  pause : ∀ u : State, u.cfg = cfg → u.busy = true → u.run = some q → exec i u = .next ((delay k u).goto p)

/-- A poll that finds `b` any number of times stands where it stood. -/
theorem PollLoop.hangs {s u : State} {i : Instr} {p q : Running} {f : BitField} {b : Bool} {k : Word} {m : Nat}
    (h : PollLoop s.cfg i p q f b k) (hu : Hanging s 0 p u) (hw : s.PollsFind m f b) :
    ∃ t, execN i (2 * m) u = .next t ∧ Hanging s (2 * m) p t := by
  induction m with
  | zero => exact ⟨u, rfl, hu⟩
  | succ m ih =>
    obtain ⟨t, ht, h0⟩ := ih fun j hj => hw j (Nat.lt_succ_of_lt hj)
    obtain ⟨hf, hc⟩ := hw m (Nat.lt_succ_self m)
    have hpoll := h.poll t h0.ahead.cfg h0.busy h0.run (by rw [State.fine, h0.ahead.moves]; exact hf)
      (by rw [h0.ahead.bitAt]; exact hc)
    have h1 := h0.heard f.reg q
    have hpause := h.pause _ h1.ahead.cfg h1.busy h1.run
    exact ⟨_, (execN_add ht 2).trans ((execN_step hpoll 1).trans (execN_step hpause 0)), h1.delay k p⟩

theorem Reads.pollLoop {i : Instr} {pos : ReadPos → Running} (h : Reads i pos) (cfg : Config) :
    PollLoop cfg i (pos .poll) (pos .pause) cfg.regMap.fCr false cfg.rdPollMs where
  poll := by rintro u rfl hb hr hf hc; exact h.notReady hb hr hf hc
  pause := by rintro u rfl hb hr; exact h.pause hb hr

theorem Waits.pollLoop {cfg : Config} {i : Instr} {t : Int} {pos : WaitPos → Running} {success : Running}
    (h : Waits cfg i t pos success) (ht : t ≤ 0) :
    PollLoop cfg i (pos (.stat .startBit)) (pos .pause) cfg.regMap.fCals true cfg.calPollMs where
  poll := by
    rintro u rfl hb hr hf hc
    rw [h.inProgress hb hr hf hc, if_neg (not_lt.mpr ht)]
  pause := by rintro u rfl hb hr; exact h.pause hb hr

/-- Settles O33: both procedures' polls are loops with no way out but another answer. -/
theorem getrdNeverEndsWithoutTheDevice : Obligations.GetrdNeverEndsWithoutTheDevice := by
  intro s m waits hangs
  have hang {i : Instr} {p q : Running} {f : BitField} {b : Bool} {k : Word} {u : State}
      (h : PollLoop s.cfg i p q f b k) (hu : Hanging s 0 p u) (hw : waits f b) : hangs i p u := by
    obtain ⟨t, ht, h⟩ := h.hangs hu hw
    exact ⟨t, ht, h.busy, h.run, h.same, h.ahead.dev, h.silent⟩
  refine ⟨fun hb i pos h hr => hang (h.pollLoop _) (hanging_start hb hr),
    fun hb i t pos success h ht hr => hang (h.pollLoop ht) (hanging_start hb hr), fun hb hw => ⟨?_, fun cl => ?_⟩⟩
  · exact ⟨_, getrd_accepted s hb, hang (Reads.getrd.pollLoop _) (hanging_accepted s _ _) hw⟩
  · exact ⟨_, getled_accepted s cl hb, hang ((Reads.getled cl).pollLoop _) (hanging_accepted s _ _) hw⟩

end Sys2Proof.Machine
end

section
/-! `WAITCAL` over any number of polls (R114, R120): with a timeout of 0 or below, and with a positive one. -/

namespace Sys2Proof.Machine

/-! ## What every step of a command keeps -/

theorem execN_keeps {α : Type} {i : Instr} (f : State → α) (hf : ∀ s t, exec i s = .next t → f t = f s) {m : Nat}
    {s t : State} (h : execN i m s = .next t) : f t = f s := by
  induction m generalizing s with
  | zero => cases h; rfl
  | succ m ih =>
    obtain ⟨u, hu⟩ := exec_next i s
    rw [execN_step hu] at h
    exact (ih h).trans (hf s u hu)

/-- Every register but `T0`, which a wait writes, and `BUSY` and the position; and the parameters, the port and the
LED channels. -/
def State.besideWait (s : State) :=
  (s.regs, s.acc, s.k, s.iter, s.cfg, s.port, s.led)

theorem besideWait_eq_iff (s t : State) : t.besideWait = s.besideWait ↔
    SameCal s t ∧ SameZoff s t ∧ SameResults s t ∧ SameScanWork s t ∧ SameOutside s t ∧ t.acc = s.acc ∧ t.k = s.k
      ∧ t.iter = s.iter := by
  simp only [State.besideWait, Prod.mk.injEq, regs_eq_iff, SameOutside]
  tauto

theorem exec_besideWait {i : Instr} (hi : (∃ tmo, i = .waitcal tmo) ∨ ∃ tmo, i = .calafe tmo) (s t : State)
    (h : exec i s = .next t) : t.besideWait = s.besideWait := by
  rcases hi with ⟨tmo, rfl⟩ | ⟨tmo, rfl⟩ <;>
    exact (besideWait_eq_iff s t).mpr (eachCommandWritesOnlyItsRegisters _ s t h).2.2

/-! ## The time along the moves -/

/-- `u` stands `k` moves after `s`, the device's registers changed by the device alone, and `NOW` is what moves of the
given least lengths have made it. -/
structure OnTime (s : State) (least : Nat → Word) (k : Nat) (u : State) : Prop extends Ahead s k u where
  now : u.now = s.nowAfter least k

section
variable {s u v : State} {least : Nat → Word} {k : Nat} (h : OnTime s least k u)
include h

theorem OnTime.congr (hm : ∀ j, v.moveAt j = u.moveAt j) (hd : v.dev = u.dev) (hc : v.cfg = u.cfg)
    (hn : v.now = u.now) : OnTime s least k v := ⟨h.toAhead.congr hm hd hc, hn.trans h.now⟩

theorem OnTime.environ {l : Word} (hl : least k = l) : OnTime s least (k + 1) (u.environ l) where
  toAhead := h.toAhead.environ l
  now := by rw [environ_now, h.now, h.cfg, h.moves, State.nowAfter, hl]; rfl

theorem OnTime.goto (r : Running) : OnTime s least k (u.goto r) := h.congr (fun _ => rfl) rfl rfl rfl

theorem OnTime.log (e : Event) : OnTime s least k (u.log e) := h.congr (fun _ => rfl) rfl rfl rfl

theorem OnTime.stamp : OnTime s least k u.stamp := h.congr (fun _ => rfl) rfl rfl rfl

theorem OnTime.heard (hl : least k = 0) (a : Byte) : OnTime s least (k + 1) (u.heard a) := (h.environ hl).log _

theorem OnTime.readNow (hl : least k = 0) : OnTime s least (k + 1) (readNow u) := (h.environ hl).log _

theorem OnTime.delay {l : Word} (hl : least k = l) : OnTime s least (k + 1) (delay l u) := (h.environ hl).log _

end

theorem onTime_accept (s : State) (least : Nat → Word) (cw : Word) : OnTime s least 0 (s.accept cw) :=
  ⟨(Ahead.refl s).congr (fun _ => rfl) rfl rfl, rfl⟩

/-! ## A position some moves after a state -/

/-- A command stands at position `r`, `n` moves after `s`, the device's registers changed by the device alone. -/
structure StandsAt (s : State) (r : Running) (n : Nat) (u : State) : Prop where
  ahead : Ahead s n u
  busy : u.busy = true
  run : u.run = some r

section
variable {s u : State} {r : Running} {n : Nat}

theorem StandsAt.fine (h : StandsAt s r n u) (hf : (s.moveAt n).busFault = none) : u.fine := by
  rw [State.fine, h.ahead.moves]
  exact hf

theorem StandsAt.bitAt (h : StandsAt s r n u) (f : RegMap → BitField) :
    u.bitAt 0 (f u.cfg.regMap) = s.bitAt n (f s.cfg.regMap) := by
  rw [h.ahead.bitAt, h.ahead.cfg, Nat.add_zero]

theorem StandsAt.heard (h : StandsAt s r n u) (a : Byte) (r' : Running) :
    StandsAt s r' (n + 1) ((u.heard a).goto r') := ⟨((h.ahead.environ 0).log _).goto r', h.busy, rfl⟩

/-- The response ends the command. -/
theorem StandsAt.respond {i : Instr} {x : Response} (h : StandsAt s (.respond (some i) x) n u) :
    ∃ t, exec i u = .next t ∧ t.busy = false ∧ t.dev = s.devAfter (n + 1) ∧ t.trace.head? = some (.resp x) :=
  ⟨_, exec_respond i u x h.busy h.run, rfl, h.ahead.devAfter 1, rfl⟩

end

/-- Only every third interaction of a wait with a positive timeout is a pause (R114). -/
theorem waitWaits_eq (s : State) (j : Nat) :
    s.waitWaits (3 * j + 1) = 0 ∧ s.waitWaits (3 * j + 2) = 0 ∧ s.waitWaits (3 * j + 3) = s.cfg.calPollMs := by
  refine ⟨if_neg (by omega), if_neg (by omega), if_pos (by omega)⟩

/-! ## The polls -/

/-- `WAITCAL` has been accepted and has taken its start time. -/
def State.waitStarted (s : State) (tmo : Raw) : State :=
  (readNow ((s.accept (encode (.waitcal tmo))).goto (.waitcal tmo .stamp))).stamp.goto (.waitcal tmo (.stat .startBit))

/-- `WAITCAL`, accepted at `s`, stands at position `p` after `n` moves of the least lengths of a wait with a positive
timeout, and `T0` is its start time. -/
structure TimedWait (s : State) (tmo : Raw) (p : WaitPos) (n : Nat) (u : State) : Prop
    extends StandsAt s (.waitcal tmo p) n u where
  onTime : OnTime s s.waitWaits n u
  t0 : u.t0 = s.nowAfter s.waitWaits 1

theorem timedWait {s u : State} {tmo : Raw} {p : WaitPos} {n : Nat} (h : OnTime s s.waitWaits n u)
    (hb : u.busy = true) (hr : u.run = some (.waitcal tmo p)) (ht : u.t0 = s.nowAfter s.waitWaits 1) :
    TimedWait s tmo p n u := ⟨⟨h.toAhead, hb, hr⟩, h, ht⟩

section
variable {s u : State} {tmo : Raw} {m n : Nat}

theorem exec_waitStarted : exec (.waitcal tmo) ((s.accept (encode (.waitcal tmo))).goto (.waitcal tmo .stamp))
    = .next (s.waitStarted tmo) := (Waits.waitcal tmo).stamp rfl rfl

theorem timedWait_started : TimedWait s tmo (.stat .startBit) 1 (s.waitStarted tmo) := by
  have h : OnTime s s.waitWaits 1 _ :=
    ((onTime_accept s s.waitWaits (encode (.waitcal tmo))).goto (.waitcal tmo .stamp)).readNow (if_neg (by simp))
  exact timedWait (h.stamp.goto _) rfl rfl h.now

theorem TimedWait.inProgress (h : TimedWait s tmo (.stat .startBit) n u) (ht : 0 < timeoutMs tmo)
    (hl : s.waitWaits n = 0) (hf : (s.moveAt n).busFault = none) (hc : s.bitAt n s.cfg.regMap.fCals = true) :
    ∃ v, exec (.waitcal tmo) u = .next v ∧ TimedWait s tmo .clock (n + 1) v := by
  have he := (Waits.waitcal tmo).inProgress h.busy h.run (h.fine hf) ((h.bitAt RegMap.fCals).trans hc)
  rw [if_pos ht] at he
  exact ⟨_, he, timedWait ((h.onTime.heard hl _).goto _) h.busy rfl h.t0⟩

theorem TimedWait.inTime (h : TimedWait s tmo .clock n u) (hl : s.waitWaits n = 0)
    (he : (elapsedSince (s.nowAfter s.waitWaits 1) (s.nowAfter s.waitWaits (n + 1))).toNat ≤ timeoutMs tmo) :
    ∃ v, exec (.waitcal tmo) u = .next v ∧ TimedWait s tmo .pause (n + 1) v := by
  have h1 := h.onTime.readNow hl
  exact ⟨_, (Waits.waitcal (cfg := u.cfg) tmo).inTime h.busy h.run (by rw [h.t0, ← readNow_now, h1.now]; exact he),
    timedWait (h1.goto _) h.busy rfl h.t0⟩

theorem TimedWait.pause (h : TimedWait s tmo .pause n u) (hl : s.waitWaits n = s.cfg.calPollMs) :
    ∃ v, exec (.waitcal tmo) u = .next v ∧ TimedWait s tmo (.stat .startBit) (n + 1) v :=
  ⟨_, (Waits.waitcal (cfg := u.cfg) tmo).pause h.busy h.run,
    timedWait ((h.onTime.delay (by rw [h.ahead.cfg, hl])).goto _) h.busy rfl h.t0⟩

/-- With a positive timeout three interactions a poll, as long as no more than the timeout has passed. -/
theorem timedWait_polls (ht : 0 < timeoutMs tmo) (hf : s.NoFault (3 * m + 1))
    (hc : ∀ j, j < m → s.bitAt (3 * j + 1) s.cfg.regMap.fCals = true)
    (he : ∀ j, j < m →
      (elapsedSince (s.nowAfter s.waitWaits 1) (s.nowAfter s.waitWaits (3 * j + 3))).toNat ≤ timeoutMs tmo) :
    ∃ u, execN (.waitcal tmo) (3 * m) (s.waitStarted tmo) = .next u
      ∧ TimedWait s tmo (.stat .startBit) (3 * m + 1) u := by
  induction m with
  | zero => exact ⟨_, rfl, timedWait_started⟩
  | succ m ih =>
    obtain ⟨u, hu, h⟩ := ih (fun j hj => hf j (by omega)) (fun j hj => hc j (by omega)) fun j hj => he j (by omega)
    obtain ⟨hl1, hl2, hl3⟩ := waitWaits_eq s m
    obtain ⟨u1, e1, h1⟩ := h.inProgress ht hl1 (hf _ (by omega)) (hc m (by omega))
    obtain ⟨u2, e2, h2⟩ := h1.inTime hl2 (he m (by omega))
    obtain ⟨u3, e3, h3⟩ := h2.pause hl3
    exact ⟨u3, (execN_add hu 3).trans ((execN_step e1 2).trans ((execN_step e2 1).trans (execN_step e3 0))), h3⟩

/-- With a timeout of 0 or below two interactions a poll, and never a time test. -/
theorem untimedWait_polls (ht : timeoutMs tmo ≤ 0) (hf : s.NoFault (2 * m + 1))
    (hc : ∀ j, j < m → s.bitAt (2 * j + 1) s.cfg.regMap.fCals = true) :
    ∃ u, execN (.waitcal tmo) (2 * m) (s.waitStarted tmo) = .next u
      ∧ StandsAt s (.waitcal tmo (.stat .startBit)) (2 * m + 1) u := by
  have h0 := (timedWait_started (s := s) (tmo := tmo)).toStandsAt
  have hw : (s.waitStarted tmo).PollsFind m s.cfg.regMap.fCals true := by
    intro j hj
    rw [h0.ahead.moves, h0.ahead.bitAt, Nat.add_comm 1]
    exact ⟨hf _ (by omega), hc j hj⟩
  obtain ⟨u, hu, h⟩ := ((Waits.waitcal tmo).pollLoop ht).hangs (hanging_start h0.busy h0.run) hw
  refine ⟨u, hu, ?_, h.busy, h.run⟩
  rw [Nat.add_comm]
  exact h0.ahead.trans h.ahead

/-- A poll that finds the start bit clear, the error bit, and the response. -/
theorem StandsAt.waitcal_ends (h : StandsAt s (.waitcal tmo (.stat .startBit)) n u) (hf : (s.moveAt n).busFault = none)
    (hc : s.bitAt n s.cfg.regMap.fCals = false) (hf1 : (s.moveAt (n + 1)).busFault = none) :
    ∃ t, execN (.waitcal tmo) 3 u = .next t ∧ t.busy = false ∧ t.dev = s.devAfter (n + 3)
      ∧ t.trace.head? = some (.resp (if s.bitAt (n + 1) s.cfg.regMap.fCalerr then ⟨0x04, 0⟩ else ⟨0x00, 1⟩)) := by
  have e1 := (Waits.waitcal tmo).ended h.busy h.run (h.fine hf) ((h.bitAt RegMap.fCals).trans hc)
  have h1 := h.heard u.cfg.regMap.fCals.reg (.waitcal tmo (.stat .errorBit))
  obtain ⟨v, x, e2, h2, hx⟩ : ∃ v x, exec (.waitcal tmo) _ = .next v
      ∧ StandsAt s (.respond (some (.waitcal tmo)) x) (n + 1 + 1) v
      ∧ x = if s.bitAt (n + 1) s.cfg.regMap.fCalerr then ⟨0x04, 0⟩ else ⟨0x00, 1⟩ := by
    cases hb : s.bitAt (n + 1) s.cfg.regMap.fCalerr with
    | true => exact ⟨_, _, (Waits.waitcal tmo).failed h1.busy h1.run (h1.fine hf1) ((h1.bitAt RegMap.fCalerr).trans hb),
        h1.heard _ _, rfl⟩
    | false => exact ⟨_, _, (Waits.waitcal tmo).succeeded h1.busy h1.run (h1.fine hf1)
        ((h1.bitAt RegMap.fCalerr).trans hb), h1.heard _ _, rfl⟩
  obtain ⟨t, e3, hbusy, hdev, htrace⟩ := h2.respond
  exact ⟨t, (execN_step e1 2).trans ((execN_step e2 1).trans (execN_step e3 0)), hbusy, hdev, hx ▸ htrace⟩

end

/-- Settles O25: the polls by induction, for either kind of timeout, then the error bit and the response. -/
theorem waitcalAnswersWhenTheCalibrationEnds : Obligations.WaitcalAnswersWhenTheCalibrationEnds := by
  intro s tmo m hb c hf hc he hend
  have hacc := waitcal_accepted s tmo hb
  obtain ⟨u, hu, h⟩ : ∃ u, execN (.waitcal tmo) (c * m) (s.waitStarted tmo) = .next u
      ∧ StandsAt s (.waitcal tmo (.stat .startBit)) (c * m + 1) u := by
    by_cases ht : 0 < timeoutMs tmo
    · have h3 : c = 3 := if_pos ht
      clear_value c
      subst h3
      obtain ⟨u, hu, h⟩ := timedWait_polls ht (fun j hj => hf j (by omega)) hc (he ht)
      exact ⟨u, hu, h.toStandsAt⟩
    · have h2 : c = 2 := if_neg ht
      clear_value c
      subst h2
      exact untimedWait_polls (not_lt.mp ht) (fun j hj => hf j (by omega)) hc
  obtain ⟨t, ht, hbusy, hdev, htrace⟩ := h.waitcal_ends (hf _ (by omega)) hend (hf _ (by omega))
  have hrun := (execN_step exec_waitStarted (c * m + 3)).trans ((execN_add hu 3).trans ht)
  have hkeep := (execN_keeps State.besideWait (exec_besideWait (.inl ⟨tmo, rfl⟩)) hrun).trans
    (exec_besideWait (.inl ⟨tmo, rfl⟩) s _ hacc)
  obtain ⟨hcal, hz, hres, hsw, hout, hacc', hk, hiter⟩ := (besideWait_eq_iff s t).mp hkeep
  exact ⟨_, t, hacc, hrun, hbusy, hcal, hz, hres, hsw, hout, hacc', hk, hiter, hdev, htrace⟩

end Sys2Proof.Machine
end

section
/-! `CALZERO` and the mean of ready samples (R122, R139, R145): the running sum is exact, and the polls, samples, time
tests and pauses of `Average` by induction on the samples. -/

namespace Sys2Proof.Machine

/-! ## The sum (R139, R145 b) -/

/-- A sum of `m` stored words, whatever their sizes. -/
theorem sampleSum_bounds (s : State) (m : Nat) :
    -(m * 2 ^ 31 : Int) ≤ s.sampleSum m ∧ s.sampleSum m ≤ m * (2 ^ 31 - 1) := by
  induction m with
  | zero => simp [State.sampleSum]
  | succ m ih =>
    have hl := BitVec.le_toInt (s.sampleAt (4 * m + 2))
    have hu := BitVec.toInt_lt (x := s.sampleAt (4 * m + 2))
    rw [State.sampleSum]
    norm_num at hl hu
    push_cast
    omega

/-- Fewer than 2^16 words added up in `ACC` do not overflow it. -/
theorem accumulate_sampleSum {s : State} {acc : BitVec 48} {m : Nat} (hm : m + 1 < 2 ^ 16)
    (h : acc.toInt = s.sampleSum m) : (accumulate acc (s.sampleAt (4 * m + 2))).toInt = s.sampleSum (m + 1) := by
  have hb := sampleSum_bounds s (m + 1)
  rw [accumulate, BitVec.toInt_add, BitVec.toInt_signExtend_of_le (by decide), h]
  rw [State.sampleSum] at *
  apply Int.bmod_eq_of_le <;> push_cast at * <;> omega

/-- Only every fourth interaction of a mean whose polls are ready is a pause (R139). -/
theorem averageWaits_eq (s : State) (j : Nat) : s.averageWaits (4 * j + 1) = 0 ∧ s.averageWaits (4 * j + 2) = 0
    ∧ s.averageWaits (4 * j + 3) = 0 ∧ s.averageWaits (4 * j + 4) = s.cfg.avgPollMs :=
  ⟨if_neg (by omega), if_neg (by omega), if_neg (by omega), if_pos (by omega)⟩

/-! ## The interactions of `Average` -/

section
variable {s u : State} {least : Nat → Word} {n : Nat} (h : OnTime s least n u)
include h

theorem OnTime.clearSum : OnTime s least n u.clearSum := h.congr (fun _ => rfl) rfl rfl rfl

theorem OnTime.addSample (v : Word) : OnTime s least n (u.addSample v) := h.congr (fun _ => rfl) rfl rfl rfl

theorem OnTime.readSample (hl : least n = 0) : OnTime s least (n + 1) (readSample u).2 := (h.environ hl).log _

end

/-- A mean of ready samples, accepted at `s`, stands at position `r` after `n` moves and `m` samples: `ACC` is their
exact sum, `K` their number, and `T0` the start time. -/
structure Sampled (s : State) (r : Running) (n m : Nat) (u : State) : Prop extends StandsAt s r n u where
  onTime : OnTime s s.averageWaits n u
  t0 : u.t0 = s.nowAfter s.averageWaits 1
  k : u.k = BitVec.ofNat 16 m
  acc : u.acc.toInt = s.sampleSum m

theorem sampled {s u : State} {r : Running} {n m : Nat} (h : OnTime s s.averageWaits n u) (hb : u.busy = true)
    (hr : u.run = some r) (ht : u.t0 = s.nowAfter s.averageWaits 1) (hk : u.k = BitVec.ofNat 16 m)
    (ha : u.acc.toInt = s.sampleSum m) : Sampled s r n m u := ⟨⟨h.toAhead, hb, hr⟩, h, ht, hk, ha⟩

/-- The mean of the first `c` samples of ready polls: their exact sum divided by `c`, rounded toward zero (R139). -/
def State.meanOfSamples (s : State) (c : BitVec 16) : Word := wordOf s.cfg ((s.sampleSum c.toNat).tdiv c.toNat)

/-- A command that takes its mean writes no register but, perhaps, `ZOFF`. -/
theorem takeMean_eq_setZoff (s : State) (i : Instr) (v : Word) : ∃ z, s.takeMean i v = s.setZoff z := by
  cases i
  case calzero => exact ⟨v, rfl⟩
  all_goals exact ⟨s.zoff, rfl⟩

theorem StandsAt.mean {s u : State} {r : Running} {n : Nat} (h : StandsAt s r n u) (i : Instr) (x v : Word) :
    StandsAt s (.respond (some i) (okResponse v)) (n + 1)
      ((((readSample u).2.addSample x).takeMean i v).answer i v) := by
  obtain ⟨z, hz⟩ := takeMean_eq_setZoff ((readSample u).2.addSample x) i v
  rw [hz]
  have h1 : Ahead s (n + 1) (readSample u).2 := (h.ahead.environ 0).log _
  have h2 : Ahead s (n + 1) (((readSample u).2.addSample x).setZoff z) := h1.congr (fun _ => rfl) rfl rfl
  exact ⟨h2.goto _, h.busy, rfl⟩

section
variable {s u : State} {i : Instr} {pos : AvgPos → Running} {c : BitVec 16} {n m : Nat} (hi : Averages c i pos)
include hi

theorem sampled_started : ∃ v, exec i ((s.accept (encode i)).goto (pos .stamp)) = .next v ∧ Sampled s (pos .poll) 1 0 v := by
  have h : OnTime s s.averageWaits 1 _ :=
    ((onTime_accept s s.averageWaits (encode i)).goto (pos .stamp)).readNow (if_neg (by simp))
  exact ⟨_, hi.stamp rfl rfl, sampled ((h.stamp.clearSum).goto _) rfl rfl h.now rfl rfl⟩

theorem Sampled.poll (h : Sampled s (pos .poll) n m u) (hl : s.averageWaits n = 0)
    (hf : (s.moveAt n).busFault = none) (hc : s.bitAt n s.cfg.regMap.fCr = true) :
    ∃ v, exec i u = .next v ∧ Sampled s (pos .sample) (n + 1) m v := by
  have he := hi.poll h.busy h.run (h.fine hf)
  rw [h.bitAt RegMap.fCr, hc, if_pos rfl] at he
  exact ⟨_, he, sampled ((h.onTime.heard hl _).goto _) h.busy rfl h.t0 h.k h.acc⟩

/-- A sample that does not complete the count. -/
theorem Sampled.more (h : Sampled s (pos .sample) (4 * m + 2) m u) (hm : m + 1 < c.toNat)
    (hf : (s.moveAt (4 * m + 2)).busFault = none) :
    ∃ v, exec i u = .next v ∧ Sampled s (pos .clock) (4 * m + 3) (m + 1) v := by
  have hlt := c.isLt
  have hne : u.k + 1 ≠ c := by rw [h.k]; bv_omega
  have he := hi.more h.busy h.run (h.fine hf) hne
  rw [h.ahead.sampleAt] at he
  refine ⟨_, he, sampled ((((h.onTime.readSample (averageWaits_eq s m).2.1).addSample _)).goto _) ?_ rfl ?_ ?_ ?_⟩
  · simpa using h.busy
  · simpa using h.t0
  · simp [h.k, BitVec.ofNat_add]
  · simpa using accumulate_sampleSum (by omega) h.acc

theorem Sampled.inTime (h : Sampled s (pos .clock) n m u) (hl : s.averageWaits n = 0)
    (he : ¬ s.cfg.avgBudgetMs < elapsedSince (s.nowAfter s.averageWaits 1) (s.nowAfter s.averageWaits (n + 1))) :
    ∃ v, exec i u = .next v ∧ Sampled s (pos .pause) (n + 1) m v := by
  have h1 := h.onTime.readNow hl
  exact ⟨_, hi.inTime h.busy h.run (by rw [h.t0, ← readNow_now, h1.now, h.ahead.cfg]; exact he),
    sampled (h1.goto _) h.busy rfl h.t0 h.k h.acc⟩

theorem Sampled.pause (h : Sampled s (pos .pause) n m u) (hl : s.averageWaits n = s.cfg.avgPollMs) :
    ∃ v, exec i u = .next v ∧ Sampled s (pos .poll) (n + 1) m v :=
  ⟨_, hi.pause h.busy h.run, sampled ((h.onTime.delay (by rw [h.ahead.cfg, hl])).goto _) h.busy rfl h.t0 h.k h.acc⟩

/-- Four interactions a sample, as long as the count is not complete and the budget is kept. -/
theorem sampled_before {v : State} (hs : s.SamplesInTime c.toNat) (h0 : Sampled s (pos .poll) 1 0 v)
    (hm : m < c.toNat) : ∃ u, execN i (4 * m) v = .next u ∧ Sampled s (pos .poll) (4 * m + 1) m u := by
  obtain ⟨hready, htime⟩ := hs
  induction m with
  | zero => exact ⟨v, rfl, h0⟩
  | succ m ih =>
    obtain ⟨u, hu, h⟩ := ih (by omega)
    obtain ⟨hf1, hc, hf2⟩ := hready m (by omega)
    obtain ⟨hl1, -, hl3, hl4⟩ := averageWaits_eq s m
    obtain ⟨u1, e1, h1⟩ := h.poll hi hl1 hf1 hc
    obtain ⟨u2, e2, h2⟩ := h1.more hi hm hf2
    obtain ⟨u3, e3, h3⟩ := h2.inTime hi hl3 (htime m hm)
    obtain ⟨u4, e4, h4⟩ := h3.pause hi hl4
    exact ⟨u4, (execN_add hu 4).trans ((execN_step e1 3).trans ((execN_step e2 2).trans ((execN_step e3 1).trans
      (execN_step e4 0)))), h4⟩

/-- The sample that completes the count, and the response: the mean is of the exact sum. -/
theorem Sampled.ends (h : Sampled s (pos .poll) (4 * m + 1) m u) (hm : m + 1 = c.toNat)
    (hf1 : (s.moveAt (4 * m + 1)).busFault = none) (hc : s.bitAt (4 * m + 1) s.cfg.regMap.fCr = true)
    (hf2 : (s.moveAt (4 * m + 2)).busFault = none) :
    ∃ t, execN i 3 u = .next t ∧ t.busy = false ∧ t.dev = s.devAfter (4 * m + 4)
      ∧ t.trace.head? = some (.resp ⟨0x00, s.meanOfSamples c⟩) ∧ (i = .calzero c → t.zoff = s.meanOfSamples c) := by
  have hlt := c.isLt
  obtain ⟨u1, e1, h1⟩ := h.poll hi (averageWaits_eq s m).1 hf1 hc
  have hk : u1.k + 1 = c := by rw [h1.k]; bv_omega
  have hmean : meanOf s.cfg (accumulate u1.acc (s.sampleAt (4 * m + 2))) c = s.meanOfSamples c := by
    rw [meanOf, accumulate_sampleSum (by omega) h1.acc, hm, State.meanOfSamples]
  have e2 := hi.last h1.busy h1.run (h1.fine hf2) hk
  rw [h1.ahead.sampleAt, h1.ahead.cfg, Nat.add_zero, hmean] at e2
  have h2 := h1.mean i (s.sampleAt (4 * m + 2)) (s.meanOfSamples c)
  refine ⟨_, (execN_step e1 2).trans ((execN_step e2 1).trans (execN_step (exec_respond i _ _ h2.busy h2.run) 0)), rfl,
    h2.ahead.devAfter 1, rfl, fun hz => ?_⟩
  rw [deliver_zoff, answer_zoff, hi.takeMean_zoff, if_pos hz]

/-- From the first position of `Average` to the response: `4 c` interactions. -/
theorem averages_course {v : State} (hs : s.SamplesInTime c.toNat) (hc : c ≠ 0)
    (hv : v = (s.accept (encode i)).goto (pos .stamp)) :
    ∃ t, execN i (4 * c.toNat) v = .next t ∧ t.busy = false ∧ t.dev = s.devAfter (4 * c.toNat)
      ∧ t.trace.head? = some (.resp ⟨0x00, s.meanOfSamples c⟩) ∧ (i = .calzero c → t.zoff = s.meanOfSamples c) := by
  obtain ⟨m, hm⟩ : ∃ m, m + 1 = c.toNat := ⟨c.toNat - 1, Nat.succ_pred_eq_of_pos (toNat_pos_of_ne_zero hc)⟩
  obtain ⟨v1, e0, h0⟩ := sampled_started (s := s) hi
  obtain ⟨u, hu, h⟩ := sampled_before hi hs h0 (show m < c.toNat by omega)
  obtain ⟨hf1, hcr, hf2⟩ := hs.1 m (by omega)
  obtain ⟨t, ht, hend⟩ := h.ends hi hm hf1 hcr hf2
  refine ⟨t, ?_, by rwa [← hm]⟩
  rw [hv, ← hm]
  exact (execN_step e0 (4 * m + 3)).trans ((execN_add hu 3).trans ht)

end

/-! ## `CALZERO` -/

/-- The registers `CALZERO` leaves alone, but for `BUSY` and the position; and the parameters, the port and the LED
channels (R122). -/
def State.besideZero (s : State) :=
  (s.calState, s.fcause, s.sr, s.srv, s.ch, s.w, s.ledonValid, s.ledonIdx, s.cfg, s.port, s.led, s.iter)

theorem besideZero_eq_iff (s t : State) : t.besideZero = s.besideZero ↔
    SameCal s t ∧ SameResults s t ∧ SameScanWork s t ∧ SameOutside s t ∧ t.iter = s.iter := by
  simp [State.besideZero, SameCal, SameResults, SameScanWork, SameOutside, and_assoc]

theorem exec_besideZero {n : BitVec 16} (s t : State) (h : exec (.calzero n) s = .next t) :
    t.besideZero = s.besideZero :=
  (besideZero_eq_iff s t).mpr (eachCommandWritesOnlyItsRegisters _ s t h).2.2

/-- Settles O28: the course of `Average`, whose mean `CALZERO` stores. -/
theorem calzeroStoresTheTruncatedMean : Obligations.CalzeroStoresTheTruncatedMean := by
  intro s n hb hn hs
  have hacc := calzero_accepted s n hb
  rw [if_pos hn] at hacc
  obtain ⟨t, hrun, hbusy, hdev, htrace, hz⟩ := averages_course .calzero hs ((countFits_iff _ _).mp hn).1 rfl
  have hzoff := hz rfl
  have hkeep := (execN_keeps State.besideZero exec_besideZero hrun).trans (exec_besideZero s _ hacc)
  exact ⟨_, t, hacc, hrun, hbusy, hzoff, hzoff ▸ htrace, hdev, (besideZero_eq_iff s t).mp hkeep⟩

end Sys2Proof.Machine
end

section
/-! `CALAFE` over any number of polls (R114, R115): its start bit and start time, the polls, and its three ends. -/

namespace Sys2Proof.Machine

/-! ## One action, its state known -/

section
variable {i : Instr} {s u v : State} {acts : List Act} {k : Nat} {r r' : Running} {n : BitVec 7}

/-- One action that is one interaction and leads to `v`. -/
theorem Reached.act (h : Reached i s acts k r n u) {a : Act} (he : exec i u = .next v)
    (hs : Stands s (.accept (encode i) :: s.trace) ((s.play acts).act s a) v)
    (hc : ((s.play acts).act s a).count = (s.play acts).count + 1 := by rfl) (hb : v.busy = u.busy := by rfl)
    (hr : v.run = some r' := by rfl) (hf : v.fcause = u.fcause := by rfl) (hn : v.iter = u.iter := by rfl) :
    Reached i s (acts ++ [a]) (k - 1) r' n v := by
  refine ⟨?_, by rwa [play_snoc], hb.trans h.busy, hr, fun j hj => ?_, hf.trans h.cause, hn.trans h.iter⟩
  · rw [play_snoc, hc, execN_add h.runs, execN_step he, execN]
  · rw [hs.moves, hc, Nat.add_assoc, Nat.add_comm 1 j, ← h.stands.moves]
    exact h.fine (j + 1) (by omega)

/-- What a read of one of the block's bits would answer. -/
theorem Reached.sees (h : Reached i s acts k r n u) (f : RegMap → BitField) :
    u.bitAt 0 (f u.cfg.regMap) = s.sees acts (f s.cfg.regMap) := by
  rw [h.stands.bitAt_zero, h.stands.cfg]

theorem Reached.stands_get (h : Reached i s acts k r n u) (f : RegMap → BitField) :
    Stands s (.accept (encode i) :: s.trace) ((s.play acts).act s (.get (f s.cfg.regMap)))
      (u.heard (f u.cfg.regMap).reg) := by
  rw [← h.stands.cfg]
  exact h.stands.look _

/-- The time a `Now` would answer. -/
theorem Reached.now_time (h : Reached i s acts k r n u) : (u.environ 0).now = (s.play (acts ++ [.time])).now := by
  rw [play_snoc]
  exact h.stands.time.now

end

/-! ## The polls -/

theorem afePolls_succ (cfg : Config) (t : Int) (m : Nat) :
    afePolls cfg t (m + 1) = afePolls cfg t m
      ++ if 0 < t then [.get cfg.regMap.fCals, .time, .wait cfg.calPollMs]
        else [.get cfg.regMap.fCals, .wait cfg.calPollMs] := by
  rw [afePolls, List.replicate_succ', List.flatten_append, ← List.append_assoc, List.flatten_singleton, afePolls]

/-- The interactions of one poll. -/
theorem play_afePolls_succ_count (s : State) (t : Int) (m : Nat) :
    (s.play (afePolls s.cfg t (m + 1))).count = (s.play (afePolls s.cfg t m)).count + if 0 < t then 3 else 2 := by
  rw [afePolls_succ, play_append]
  split <;> rfl

/-- `CALAFE`, accepted at `s`, has done the actions `acts` and stands at position `p` of its wait, and `T0` is the
start time. The next `k` moves bring no bus fault. -/
structure Polling (s : State) (tmo : Raw) (acts : List Act) (k : Nat) (p : WaitPos) (u : State) : Prop
    extends Reached (.calafe tmo) s acts k (.calafe tmo (.wait p)) s.iter u where
  t0 : u.t0 = (s.play [Act.set s.cfg.regMap.fCals, .time]).now

theorem polling_started {s : State} {tmo : Raw} {k : Nat} (hf : s.NoFault (k + 3)) :
    ∃ u, Polling s tmo (afePolls s.cfg (timeoutMs tmo) 0) k (.stat .startBit) u := by
  have h0 : Reached (.calafe tmo) s [] (k + 1 + 2) (.calafe tmo (.start .read)) s.iter _ := reached_startOf hf rfl
  obtain ⟨w, h1⟩ := h0.modify (back := (.calafe tmo <| .start ·)) (fun _ => rfl) fun _ hn => ⟨rfl, hn⟩
  have ht := h1.stands.time
  exact ⟨_, h1.act ((Waits.calafe tmo).stamp h1.busy h1.run) (ht.congr (fun _ => rfl) rfl rfl rfl rfl), ht.now⟩

section
variable {s u : State} {tmo : Raw} {acts : List Act} {k : Nat}

theorem Polling.inProgress (h : Polling s tmo acts (k + 1) (.stat .startBit) u)
    (hc : s.sees acts s.cfg.regMap.fCals = true) :
    ∃ v, Polling s tmo (acts ++ [.get s.cfg.regMap.fCals]) k (if 0 < timeoutMs tmo then .clock else .pause) v := by
  have he := (Waits.calafe tmo).inProgress h.busy h.run (h.fine 0 (by omega)) ((h.sees RegMap.fCals).trans hc)
  exact ⟨_, h.act he ((h.stands_get RegMap.fCals).goto _), h.t0⟩

theorem Polling.inTime (h : Polling s tmo acts (k + 1) .clock u)
    (he : (elapsedSince (s.play [Act.set s.cfg.regMap.fCals, .time]).now (s.play (acts ++ [.time])).now).toNat
      ≤ timeoutMs tmo) :
    ∃ v, Polling s tmo (acts ++ [.time]) k .pause v := by
  rw [← h.t0, ← h.now_time] at he
  exact ⟨_, h.act ((Waits.calafe (cfg := u.cfg) tmo).inTime h.busy h.run he) (h.stands.time.goto _), h.t0⟩

theorem Polling.pause (h : Polling s tmo acts (k + 1) .pause u) :
    ∃ v, Polling s tmo (acts ++ [.wait s.cfg.calPollMs]) k (.stat .startBit) v := by
  have he := (Waits.calafe (cfg := u.cfg) tmo).pause h.busy h.run
  rw [h.stands.cfg] at he
  exact ⟨_, h.act he ((h.stands.wait _).goto _), h.t0⟩

/-- A poll in progress, with its time test if the timeout is positive, and the pause. -/
theorem Polling.next {m : Nat} (h : Polling s tmo (afePolls s.cfg (timeoutMs tmo) m)
      (k + if 0 < timeoutMs tmo then 3 else 2) (.stat .startBit) u)
    (hc : s.sees (afePolls s.cfg (timeoutMs tmo) m) s.cfg.regMap.fCals = true)
    (he : 0 < timeoutMs tmo → (s.afeElapsed (timeoutMs tmo) m).toNat ≤ timeoutMs tmo) :
    ∃ v, Polling s tmo (afePolls s.cfg (timeoutMs tmo) (m + 1)) k (.stat .startBit) v := by
  rw [afePolls_succ]
  by_cases ht : 0 < timeoutMs tmo
  · rw [if_pos ht] at h ⊢
    obtain ⟨u1, h1⟩ := h.inProgress (k := k + 2) hc
    rw [if_pos ht] at h1
    obtain ⟨u2, h2⟩ := h1.inTime (by simpa [State.afeElapsed] using he ht)
    obtain ⟨u3, h3⟩ := h2.pause
    exact ⟨u3, by simpa using h3⟩
  · rw [if_neg ht] at h ⊢
    obtain ⟨u1, h1⟩ := h.inProgress (k := k + 1) hc
    rw [if_neg ht] at h1
    obtain ⟨u2, h2⟩ := h1.pause
    exact ⟨u2, by simpa using h2⟩

theorem polling_polls {m : Nat} (hc : ∀ j, j < m → s.sees (afePolls s.cfg (timeoutMs tmo) j) s.cfg.regMap.fCals = true)
    (he : 0 < timeoutMs tmo → ∀ j, j < m → (s.afeElapsed (timeoutMs tmo) j).toNat ≤ timeoutMs tmo)
    (hf : s.NoFault ((s.play (afePolls s.cfg (timeoutMs tmo) m)).count + k)) :
    ∃ u, Polling s tmo (afePolls s.cfg (timeoutMs tmo) m) k (.stat .startBit) u := by
  induction m generalizing k with
  | zero => exact polling_started (Nat.add_comm 3 k ▸ hf)
  | succ m ih =>
    rw [play_afePolls_succ_count, Nat.add_assoc, Nat.add_comm _ k] at hf
    obtain ⟨u, h⟩ := ih (fun j hj => hc j (by omega)) (fun ht j hj => he ht j (by omega)) hf
    exact h.next (hc m (by omega)) fun ht => he ht m (by omega)

/-! ## The ends -/

theorem Polling.ended (h : Polling s tmo acts (k + 1) (.stat .startBit) u)
    (hc : s.sees acts s.cfg.regMap.fCals = false) :
    ∃ v, Polling s tmo (acts ++ [.get s.cfg.regMap.fCals]) k (.stat .errorBit) v := by
  have he := (Waits.calafe tmo).ended h.busy h.run (h.fine 0 (by omega)) ((h.sees RegMap.fCals).trans hc)
  exact ⟨_, h.act he ((h.stands_get RegMap.fCals).goto _), h.t0⟩

variable (hb : s.busy = false)
include hb

/-- The error bit clear: the conversion-start bit, and the response. -/
theorem Polling.performs_success (h : Polling s tmo acts 3 (.stat .errorBit) u)
    (hc : s.sees acts s.cfg.regMap.fCalerr = false) :
    ∃ t, Performs (.calafe tmo)
      (acts ++ [.get s.cfg.regMap.fCalerr, .set s.cfg.regMap.fCs, .reply ⟨0x00, 0⟩]) s t := by
  have he := (Waits.calafe tmo).succeeded h.busy h.run (h.fine 0 (by omega)) ((h.sees RegMap.fCalerr).trans hc)
  have h1 : Reached _ _ _ 2 _ _ _ := h.act he ((h.stands_get RegMap.fCalerr).goto _)
  obtain ⟨w, h2⟩ := h1.modify (back := (.calafe tmo <| .convert ·)) (fun _ => rfl) fun _ hn => ⟨rfl, hn⟩
  exact ⟨_, by simpa [Act.set, Act.get, okResponse, okCode] using h2.reply hb⟩

/-- The error bit set. -/
theorem Polling.performs_failure (h : Polling s tmo acts 1 (.stat .errorBit) u)
    (hc : s.sees acts s.cfg.regMap.fCalerr = true) :
    ∃ t, Performs (.calafe tmo) (acts ++ [.get s.cfg.regMap.fCalerr, .reply ⟨0x04, 0⟩]) s t := by
  have he := (Waits.calafe tmo).failed h.busy h.run (h.fine 0 (by omega)) ((h.sees RegMap.fCalerr).trans hc)
  exact ⟨_, by simpa [Act.get] using (h.act he ((h.stands_get RegMap.fCalerr).goto _)).reply hb⟩

/-- More than the timeout has passed at the time test. -/
theorem Polling.performs_timeout (h : Polling s tmo acts k .clock u) (ht : 0 < timeoutMs tmo)
    (he : timeoutMs tmo
      < (elapsedSince (s.play [Act.set s.cfg.regMap.fCals, .time]).now (s.play (acts ++ [.time])).now).toNat) :
    ∃ t, Performs (.calafe tmo) (acts ++ [.time, .reply ⟨0x03, 0⟩]) s t := by
  rw [← h.t0, ← h.now_time] at he
  have hx := (Waits.calafe (cfg := u.cfg) tmo).timedOut h.busy h.run ht he
  exact ⟨_, by simpa using (h.act hx (h.stands.time.goto _)).reply hb⟩

end

theorem Performs.besideWait {tmo : Raw} {acts : List Act} {s t : State} (h : Performs (.calafe tmo) acts s t) :
    t.besideWait = s.besideWait := by
  obtain ⟨u, hu, hrun, -⟩ := h
  exact (execN_keeps State.besideWait (exec_besideWait (.inr ⟨tmo, rfl⟩)) hrun).trans
    (exec_besideWait (.inr ⟨tmo, rfl⟩) s u hu)

/-- Settles O27: the polls by induction, then the end the device's answers make of them. -/
theorem calafeSetsBothBitsOnSuccess : Obligations.CalafeSetsBothBitsOnSuccess := by
  intro s tmo m hb t cals calerr polls same hc he
  have hsame {acts : List Act} (h : ∃ u, Performs (.calafe tmo) acts s u) :
      ∃ u, Performs (.calafe tmo) acts s u ∧ same u := by
    obtain ⟨u, h⟩ := h
    exact ⟨u, h, (besideWait_eq_iff s u).mp h.besideWait⟩
  refine ⟨fun hf hended herr => hsame ?_, fun hf hended herr => hsame ?_, fun hf ht hbusy hlate => hsame ?_⟩
  · obtain ⟨u, h⟩ := polling_polls hc he hf
    obtain ⟨v, h1⟩ := h.ended hended
    simpa using h1.performs_success hb herr
  · obtain ⟨u, h⟩ := polling_polls hc he hf
    obtain ⟨v, h1⟩ := h.ended hended
    simpa using h1.performs_failure hb herr
  · obtain ⟨u, h⟩ := polling_polls hc he hf
    obtain ⟨v, h1⟩ := h.inProgress hbusy
    rw [if_pos ht] at h1
    simpa using h1.performs_timeout hb ht (by simpa [State.afeElapsed] using hlate)

end Sys2Proof.Machine
end

section
/-! The commands of sampling from acceptance to response (R135, R137 to R145): `AVAIL` with its one poll, `GETRD` and
`GETLED` over any number of polls, `GETAVG` with every poll ready; and the arithmetic of the offset reading. -/

namespace Sys2Proof.Machine

/-! ## The offset reading (R140, R145 d) -/

theorem offsetReading_eq (cfg : Config) (cl : Bool) (v z : Word) : offsetReading cfg cl v z =
    if cl = true ∧ v.toInt - z.toInt < 0 then 0 else wordOf cfg (v.toInt - z.toInt) := by
  simp [offsetReading]

section
variable {cfg : Config} {v z : Word}

/-- Without the clamp it is the 32-bit subtraction, whatever the words. -/
theorem offsetReading_false (hx : 32 ≤ cfg.xlen) : offsetReading cfg false v z = v - z := by
  rw [offsetReading_eq, if_neg (fun h => nomatch h.1), wordOf_eq hx]
  exact BitVec.eq_of_toInt_eq (by rw [BitVec.toInt_ofInt, BitVec.toInt_sub])

/-- The difference of two Samples does not overflow a stored word. -/
theorem wordOf_difference_toInt (hx : 32 ≤ cfg.xlen) (hv : IsSample v) (hz : IsSample z) :
    (wordOf cfg (v.toInt - z.toInt)).toInt = v.toInt - z.toInt := by
  obtain ⟨hv0, hv1⟩ := hv
  obtain ⟨hz0, hz1⟩ := hz
  exact wordOf_toInt hx (by omega) (by omega)

theorem offsetReading_false_toInt (hx : 32 ≤ cfg.xlen) (hv : IsSample v) (hz : IsSample z) :
    (offsetReading cfg false v z).toInt = v.toInt - z.toInt := by
  rw [offsetReading_eq, if_neg (fun h => nomatch h.1), wordOf_difference_toInt hx hv hz]

/-- With the clamp it is the larger of the difference and 0. -/
theorem offsetReading_true_toInt (hx : 32 ≤ cfg.xlen) (hv : IsSample v) (hz : IsSample z) :
    (offsetReading cfg true v z).toInt = max (v.toInt - z.toInt) 0 := by
  rw [offsetReading_eq]
  by_cases hneg : v.toInt - z.toInt < 0
  · rw [if_pos ⟨rfl, hneg⟩, max_eq_right hneg.le]
    rfl
  · rw [if_neg (fun h => hneg h.2), wordOf_difference_toInt hx hv hz, max_eq_left (not_lt.mp hneg)]

end

/-- Settles O38: the stored difference of two Samples is exact, and the clamp cuts it off at 0. -/
theorem offsetReadingIsExact : Obligations.OffsetReadingIsExact := fun _ _ _ hx hv hz =>
  ⟨offsetReading_false_toInt hx hv hz, offsetReading_false hx, isDifference_offsetReading hx hv hz,
    offsetReading_true_toInt hx hv hz⟩

/-! ## `AVAIL` -/

/-- Settles O30: the one poll answers with the bit, or faults. -/
theorem availAnswersTheCycleReadyBit : Obligations.AvailAnswersTheCycleReadyBit := by
  intro s hb
  obtain ⟨u, hacc, h⟩ : ∃ u, exec .avail s = .next u ∧ Came .avail s 0 [] .avail u :=
    ⟨_, avail_accepted s hb, came_accepted ..⟩
  have hmove : u.moveAt 0 = s.moveAt 0 := h.ahead.moves 0
  refine ⟨by decide, u, ?_⟩
  cases hm : (s.moveAt 0).busFault with
  | none =>
    have hread := exec_of_execStep (.avail h.busy h.run rfl (by rw [State.fine, hmove, hm]))
    rw [h.ahead.cfg, h.ahead.bitAt] at hread
    obtain ⟨t, hend, hbusy, hsame, htrace, hdev⟩ := (h.heard s.cfg.regMap.fCr.reg _).respond
    exact ⟨_, t, hacc, hread, hend, hbusy, hsame, hdev, fun _ => htrace, nofun⟩
  | some b =>
    have hread := exec_of_execStep (.availFault h.busy h.run rfl (by rw [State.bad, hmove, hm]; rfl))
    rw [h.ahead.cfg] at hread
    obtain ⟨t, hend, hbusy, hsame, htrace, hdev⟩ := (h.missed s.cfg.regMap.fCr.reg _).respond
    exact ⟨_, t, hacc, hread, hend, hbusy, hsame, hdev, nofun, fun _ => htrace⟩

/-! ## One reading after any number of polls (R138) -/

/-- A poll that reads 1. -/
theorem Reads.ready {s : State} {i : Instr} {pos : ReadPos → Running} (h : Reads i pos) (hb : s.busy = true)
    (hr : s.run = some (pos .poll)) (hf : s.fine) (hc : s.bitAt 0 s.cfg.regMap.fCr = true) :
    exec i s = .next ((s.heard s.cfg.regMap.fCr.reg).goto (pos .sample)) := by
  obtain ⟨rest, hv⟩ := h.gettingReading .poll
  rw [exec_of_execStep (.pollReading hb _ hr _ hv rfl rfl hf), hc]
  rfl

section
variable {s u : State} {n : Nat}

theorem Hanging.standsAt {r : Running} (h : Hanging s n r u) : StandsAt s r n u := ⟨h.ahead, h.busy, h.run⟩

theorem SameRegs.readSample (h : SameRegs s u) : SameRegs s (readSample u).2 := h

theorem Hanging.blockRead {r : Running} (h : Hanging s n r u) (q : Running) :
    Hanging s (n + 1) q ((readSample u).2.goto q) where
  ahead := ((h.ahead.environ 0).log _).goto q
  busy := h.busy
  run := rfl
  same := h.same.readSample
  silent := by simpa [readSample, memReadBlock] using h.silent

/-- The response ends it. -/
theorem Hanging.respond {i : Instr} {x : Response} (h : Hanging s n (.respond (some i) x) u) :
    ∃ t, exec i u = .next t ∧ t.busy = false ∧ SameRegs s t ∧ t.trace.head? = some (.resp x)
      ∧ t.dev = s.devAfter (n + 1) :=
  ⟨_, exec_respond i u x h.busy h.run, rfl, h.same.deliver x, rfl, h.ahead.devAfter 1⟩

end

section
variable {s : State} {i : Instr} {pos : ReadPos → Running} {rest : Word → State → State} {value : Word → Word}
  {m n : Nat} (hv : (pos .sample).gettingReading = some ⟨i, .sample, pos, rest⟩)
  (hrest : ∀ (v : Word) (u : State), SameRegs s u → rest v u = u.answer i (value v))
include hv hrest

/-- The block read of a command that answers with `value` of its reading, and the response. -/
theorem Hanging.reading_ends {u : State} (h : Hanging s n (pos .sample) u) (hf : (s.moveAt n).busFault = none) :
    ∃ t, execN i 2 u = .next t ∧ t.busy = false ∧ SameRegs s t
      ∧ t.trace.head? = some (.resp (okResponse (value (s.sampleAt n)))) ∧ t.dev = s.devAfter (n + 2) := by
  have hread : exec i u = .next (rest (u.sampleAt 0) (readSample u).2) :=
    exec_of_execStep (.sampleReading h.busy _ h.run _ hv rfl rfl (h.standsAt.fine hf))
  rw [hrest _ _ h.same.readSample, h.ahead.sampleAt] at hread
  obtain ⟨t, hresp, hend⟩ := (h.blockRead (.respond (some i) (okResponse (value (s.sampleAt n))))).respond
  exact ⟨t, (execN_step hread 1).trans (execN_step hresp 0), hend⟩

/-- The whole command: the polls that read 0, the poll that reads 1, the block read, the response. -/
theorem readingCourse (h : Reads i pos) (hacc : exec i s = .next ((s.accept (encode i)).goto (pos .poll)))
    (hs : s.ReadyAfter m) : ReadingCourse i value m s := by
  obtain ⟨hf, hwait, hready⟩ := hs
  have hpolls : s.PollsFind m s.cfg.regMap.fCr false := fun j hj => ⟨hf _ (by omega), hwait j hj⟩
  obtain ⟨u, hrun, h0⟩ := (h.pollLoop s.cfg).hangs (hanging_accepted s i _) hpolls
  have hpoll := h.ready h0.busy h0.run (h0.standsAt.fine (hf _ (by omega)))
    ((h0.standsAt.bitAt RegMap.fCr).trans hready)
  obtain ⟨t, hlast, hend⟩ := (h0.heard _ _).reading_ends hv hrest (hf _ (by omega))
  exact ⟨_, t, hacc, (execN_add hrun 3).trans ((execN_step hpoll 2).trans hlast), hend⟩

end

/-- Settles O31: a reading, answered as it is. -/
theorem getrdAnswersTheFirstReadySample : Obligations.GetrdAnswersTheFirstReadySample := fun s _ hb hs =>
  readingCourse rfl (fun _ _ _ => rfl) .getrd (getrd_accepted s hb) hs

/-- Settles O32: a reading, answered less the zero offset, which no step of `GETLED` changes. -/
theorem getledAnswersTheOffsetReading : Obligations.GetledAnswersTheOffsetReading := by
  intro s cl m hb hs
  refine readingCourse rfl (fun v u hu => ?_) (.getled cl) (getled_accepted s cl hb) hs
  obtain ⟨-, hzoff, -, -, -, hcfg, -⟩ := hu
  rw [offsetReading_eq, hcfg, hzoff]

/-! ## `GETAVG` -/

/-- What `GETAVG` leaves alone: what `CALZERO` does, and `ZOFF` (R143). -/
def State.besideMean (s : State) :=
  (s.besideZero, s.zoff)

theorem besideMean_eq_iff (s t : State) : t.besideMean = s.besideMean ↔ SameCal s t ∧ SameZoff s t
    ∧ SameResults s t ∧ SameScanWork s t ∧ SameOutside s t ∧ t.iter = s.iter := by
  rw [State.besideMean, State.besideMean, Prod.mk.injEq, besideZero_eq_iff, SameZoff]
  tauto

theorem exec_besideMean {n : BitVec 16} (s t : State) (h : exec (.getavg n) s = .next t) :
    t.besideMean = s.besideMean :=
  (besideMean_eq_iff s t).mpr (eachCommandWritesOnlyItsRegisters _ s t h).2.2

/-- Settles O34: the course of `Average`, whose mean `GETAVG` only answers. -/
theorem getavgAnswersTheTruncatedMean : Obligations.GetavgAnswersTheTruncatedMean := by
  intro s n hb hn hs
  have hacc := getavg_accepted s n hb
  rw [if_pos hn] at hacc
  obtain ⟨t, hrun, hbusy, hdev, htrace, -⟩ := averages_course .getavg hs ((countFits_iff _ _).mp hn).1 rfl
  have hkeep := (execN_keeps State.besideMean exec_besideMean hrun).trans (exec_besideMean s _ hacc)
  exact ⟨_, t, hacc, hrun, hbusy, htrace, hdev, (besideMean_eq_iff s t).mp hkeep⟩

end Sys2Proof.Machine
end

section
/-! The scan's failure action (R152) and the state reads (R154 to R156). -/

namespace Sys2Proof.Machine

/-! ## The failure action of `SCAN` (R152, R176) -/

theorem raise_scan_of_lit {s : State} {c : Cause} (h : s.ledonValid = true) :
    s.raise .scan c = s.goto (.scan (.abort c)) := by
  rw [State.raise, if_pos h]

/-- A poll or a block read of a scan that faults is recorded on the bus and raises `BusFault`. -/
theorem exec_scan_reading_of_bad {s : State} {p : ReadPos} (hb : s.busy = true) (hr : s.run = some (.scan (.reading p)))
    (hp : p ≠ .pause) (hm : s.bad) :
    ∃ e, e.busDevice.isSome = true ∧ exec .scan s = .next (((s.environ 0).log e).raise .scan .busFault) := by
  cases p with
  | poll => exact ⟨.rd .., rfl, exec_of_execStep (.pollReadingFault hb _ hr _ rfl rfl rfl hm)⟩
  | sample => exact ⟨.rdBlock .., rfl, exec_of_execStep (.sampleReadingFault hb _ hr _ rfl rfl rfl hm)⟩
  | pause => exact absurd rfl hp

/-- The failure action of a scan and its response: the channel `LEDON` names goes off, and nothing is written but
`LEDON` (R152, R176). -/
theorem exec_scan_abort_course {s : State} {c : Cause} (hb : s.busy = true) (hr : s.run = some (.scan (.abort c))) :
    ∃ u t, exec .scan s = .next u ∧ exec .scan u = .next t ∧ u.led = setChannel s.led s.ledonIdx false
      ∧ u.ledonValid = false ∧ t.led = u.led ∧ t.busy = false ∧ t.ledonValid = false
      ∧ t.trace = .resp (failResponse c) :: .led s.ledonIdx false :: s.trace
      ∧ SameResults s t ∧ SameCal s t ∧ SameZoff s t := by
  refine ⟨_, _, scan_abort s c hb hr, exec_respond .scan _ _ (by simpa using hb) (goto_run ..), ?_⟩
  exact ⟨rfl, rfl, rfl, rfl, rfl, rfl, by simp [SameResults], by simp [SameCal], by simp [SameZoff]⟩

/-- Settles O41: the fault, the failure action that turns the lit channel off, the response. -/
theorem scanFailureTurnsTheChannelOff : Obligations.ScanFailureTurnsTheChannelOff := by
  intro s p hb hr hp hv hm
  obtain ⟨e, he, hfault⟩ := exec_scan_reading_of_bad hb hr hp hm
  rw [raise_scan_of_lit (by simpa using hv)] at hfault
  obtain ⟨u, t, habort, hresp, hoff, hinvalid, hled, hbusy, hvalid, htrace, hresults, hcal, hzoff⟩ :=
    exec_scan_abort_course (s := ((s.environ 0).log e).goto (.scan (.abort .busFault))) (by simpa using hb) rfl
  exact ⟨_, u, t, hfault, habort, hresp, rfl, hoff, hinvalid, hled, hbusy, hvalid, hresults, hcal, hzoff, e, htrace,
    he⟩

/-! ## The state reads (R154 to R156) -/

/-- Settles O42: `SRV` decides at acceptance between the result and `NoData`. -/
theorem rdsrAnswersTheResultOrNoData : Obligations.RdsrAnswersTheResultOrNoData := by
  intro s idx hb
  refine ⟨rfl, answerCourse_of_accepted ?_⟩
  rw [rdsr_accepted s idx hb]
  cases s.srv <;> rfl

/-- The places of `CAL_STATE`, `SRV`, the zeros and `FCAUSE` in the word of `RDSTATE` (R74). -/
theorem stateWord_fields (s : State) :
    (stateWord s).extractLsb' 0 3 = s.calState ∧ (stateWord s).getLsbD 3 = s.srv
      ∧ (stateWord s).extractLsb' 4 4 = 0#4 ∧ (stateWord s).extractLsb' 8 8 = s.fcause
      ∧ (stateWord s).extractLsb' 16 16 = 0#16 := by
  have hn : (stateWord s).toNat = s.fcause.toNat * 2 ^ 8 + s.srv.toNat * 2 ^ 3 + s.calState.toNat := by
    simp only [stateWord, toNat_side_by_side, BitVec.toNat_ofNat, BitVec.toNat_ofBool]
    omega
  have hcause := s.fcause.isLt
  have hsrv := s.srv.toNat_lt
  have hcal := s.calState.isLt
  refine ⟨?_, ?srv, ?_, ?_, ?_⟩
  case srv =>
    rw [BitVec.getLsbD, hn, Nat.testBit_eq_decide_div_mod_eq]
    cases s.srv <;> simp <;> omega
  all_goals
    apply BitVec.eq_of_toNat_eq
    simp only [BitVec.extractLsb'_toNat, hn, Nat.shiftRight_eq_div_pow, BitVec.toNat_ofNat]
    omega

/-- While no command is in execution the calibration is not under way (R20, R155). -/
theorem State.CalInv.of_not_busy {s : State} (h : s.CalInv) (hb : s.busy = false) :
    s.calState = calUninitialized ∨ s.calState = calReady ∨ s.calState = calFaulted := by
  obtain ⟨-, -, -, -, hidle⟩ := h
  exact hidle fun _ _ _ _ hb' => absurd (hb.symm.trans hb') Bool.false_ne_true

/-- Settles O43: the state word, whose `CAL_STATE` no `BEGIN` is changing. -/
theorem rdstateAnswersTheStateWord : Obligations.RdstateAnswersTheStateWord := by
  intro s hb
  obtain ⟨hcal, hsrv, hlow, hcause, hhigh⟩ := stateWord_fields s
  exact ⟨by decide, stateWord s, answerCourse_of_accepted (rdstate_accepted s hb), hcal, hsrv, hlow, hcause, hhigh,
    fun hinv => hcal ▸ hinv.of_not_busy hb⟩

/-- Settles O44: the answer is fixed at acceptance. -/
theorem rdzoffAnswersTheZeroOffset : Obligations.RdzoffAnswersTheZeroOffset := fun s hb =>
  ⟨by decide, answerCourse_of_accepted (rdzoff_accepted s hb)⟩

end Sys2Proof.Machine
end

section
/-! No failure ends the machine (R165, R176, R178): each branch of a step answers a next state. -/

namespace Sys2Proof.Machine

/-- A block that is not busy idles, starts a command, or rejects an illegal word (R22, R69). -/
theorem acceptNext_next (s : State) : ∃ t, acceptNext s = .next t := by
  unfold acceptNext
  split
  case h_1 => exact ⟨_, rfl⟩
  case h_2 cw rest _ =>
    split
    case h_1 i _ => exact exec_next i (s.withPort rest)
    case h_2 => exact ⟨_, rfl⟩

/-- A busy block idles, answers an illegal word, or performs a step of the command in execution (R24). -/
theorem continueRun_next (s : State) : ∃ t, continueRun s = .next t := by
  unfold continueRun
  split
  case h_1 => exact ⟨_, rfl⟩
  case h_2 => exact ⟨_, rfl⟩
  case h_3 =>
    split
    case h_1 i _ => exact exec_next i s
    case h_2 => exact ⟨_, rfl⟩

theorem stepBlock_next (s : State) : ∃ t, stepBlock s = .next t := by
  unfold stepBlock
  split
  · exact continueRun_next s
  · exact acceptNext_next s

theorem step_next (s : State) : ∃ t, step s = .next t := by
  unfold step stepOnce
  split
  · exact ⟨_, rfl⟩
  · exact stepBlock_next s

/-- Settles O7: a step is reset or a step of the block, whose every branch goes on, and a command goes on in every
state. -/
theorem everyStepAndCommandGoesOn : Obligations.EveryStepAndCommandGoesOn := ⟨step_next, exec_next⟩

end Sys2Proof.Machine
end

section
/-! The interaction that a reset cuts short: what of it lands at the ports, and what is left when it does not (R186,
R187, U13). -/

namespace Sys2Proof.Machine

/-- What a busy block does at its position, whether or not reset is asserted meanwhile. -/
theorem stepBlock_busy_acts {s t : State} (hb : s.busy = true) (h : stepBlock s = .next t) :
    (∃ i, ActsIn i s t) ∨ (∃ j x, s.run = some (.respond j x) ∧ t = s.deliver x) ∨ s.run = none ∧ t = s.idle := by
  rw [stepBlock, if_pos hb, continueRun] at h
  cases hr : s.run with
  | none =>
    rw [hr] at h
    cases h
    exact .inr (.inr ⟨rfl, rfl⟩)
  | some r =>
    rw [hr] at h
    cases r
    case respond j x =>
      refine .inr (.inl ⟨j, x, rfl, ?_⟩)
      cases j with
      | none => cases h; rfl
      | some i =>
        cases (exec_respond i s x hb hr).symm.trans h
        rfl
    all_goals
      have hn : ∀ i x, s.run ≠ some (.respond (some i) x) := fun i x hx => nomatch hr.symm.trans hx
      exact .inl ⟨_, execStep_actsIn (execStep_of_exec h) hb ⟨_, hr, rfl⟩ (hn _)⟩

/-- What the coming interaction of a busy block leaves of the device, if it takes place: a bus write its byte in its
register (R43), every other interaction the device's own changes. -/
def State.devInteracted (s : State) : Memory :=
  match s.stores with
  | some (a, v) => Memory.write (s.devAfter 1) a (s.writtenByte v)
  | none => s.devAfter 1

/-- What the coming interaction of a busy block leaves of the LED channels, if it takes place (R150). -/
def State.ledInteracted (s : State) : Vector Bool 8 :=
  match s.switches with
  | some (c, on) => setChannel s.led c on
  | none => s.led

theorem Interacted.dev_eq {s u : State} (h : Interacted s u) : u.dev = s.devInteracted := by
  cases h with
  | store a v hst => rw [State.devInteracted, hst]; rfl
  | switch _ _ hst => rw [State.devInteracted, hst]; rfl
  | watch _ _ _ hst => rw [State.devInteracted, hst]; rfl

theorem Interacted.led_eq {s u : State} (h : Interacted s u) : u.led = s.ledInteracted := by
  cases h with
  | store _ _ _ hsw => rw [State.ledInteracted, hsw]; rfl
  | switch c on _ hsw => rw [State.ledInteracted, hsw]; rfl
  | watch _ _ _ _ hsw => rw [State.ledInteracted, hsw]; rfl

/-- A busy block that answers or has nothing to do writes no register and switches no channel. -/
theorem interacted_of_no_command {s : State} (h : s.run = none ∨ ∃ j x, s.run = some (.respond j x)) :
    s.devAfter 1 = s.devInteracted ∧ s.led = s.ledInteracted := by
  have hst : s.stores = none := by rcases h with hr | ⟨j, x, hr⟩ <;> simp [State.stores, Running.stores, hr]
  have hsw : s.switches = none := by rcases h with hr | ⟨j, x, hr⟩ <;> simp [State.switches, hr]
  rw [State.devInteracted, State.ledInteracted, hst, hsw]
  exact ⟨rfl, rfl⟩

/-- A step of a busy block, whether or not reset is asserted meanwhile, leaves of the device and the LED channels what
its interaction does. -/
theorem stepBlock_interacted {s t : State} (hb : s.busy = true) (h : stepBlock s = .next t) :
    t.dev = s.devInteracted ∧ t.led = s.ledInteracted := by
  rcases stepBlock_busy_acts hb h with ⟨i, ⟨u, hu, ht⟩, -⟩ | ⟨j, x, hr, rfl⟩ | ⟨hr, rfl⟩
  · obtain ⟨-, -, -, hdev, hled⟩ := (atPorts_eq_iff u t).mp ht
    exact ⟨hdev.trans hu.dev_eq, hled.trans hu.led_eq⟩
  · exact interacted_of_no_command (.inr ⟨j, x, hr⟩)
  · exact interacted_of_no_command (.inl hr)

theorem inFlight_landed {s t : State} (hb : s.busy = true) (h : stepBlock s = .next t) : s.inFlight true = t := by
  simp only [State.inFlight, hb, h, Bool.and_self, if_true]

/-- Reset leaves the interaction in flight done or not done at all, as the move says (R186, U13). -/
theorem inFlight_dev_led {s : State} (landed : Bool) (hb : s.busy = true) :
    (s.inFlight landed).dev = (if landed then s.devInteracted else s.devAfter 1)
      ∧ (s.inFlight landed).led = (if landed then s.ledInteracted else s.led) := by
  cases landed with
  | false => exact ⟨rfl, rfl⟩
  | true =>
    obtain ⟨t, ht⟩ := stepBlock_next s
    rw [inFlight_landed hb ht]
    exact stepBlock_interacted hb ht

/-- Settles O11: reset keeps the device and the LED channels of the interaction in flight, which is that of the
position, done or not done at all. -/
theorem resetMayCutAnInteractionShort : Obligations.ResetMayCutAnInteractionShort := by
  intro s landed hs hb
  obtain ⟨hdev, hled⟩ := inFlight_dev_led landed hb
  refine ⟨resetStep landed s, by rw [step, stepOnce, hs], ?_, ?_⟩
  · rw [resetStep_eq, hdev, State.devInteracted]
    cases s.stores <;> cases landed <;> rfl
  · rw [resetStep_eq, hled, State.ledInteracted]
    cases s.switches <;> cases landed <;> rfl

end Sys2Proof.Machine
end
